-- ==== Sys2Proof/Word.lean ====
section
/-! DEFINITION. The word types of the block (00_scope.md R6, R8): every register byte and every CPU data transfer is
8 bits wide, the address result is 16 bits wide, and a command word is 12 bits wide (30_encoding.md R36). -/

namespace Sys2Proof

/-- `BYTE` of 00_scope.md R6: a register byte, an operand byte, one CPU data transfer. -/
abbrev Byte := BitVec 8

/-- A 16-bit address: the result of `get_address` (`ADDR_READ_WIDTH`, 00_scope.md R6), or a CPU address
(30_encoding.md R35). -/
abbrev Address := BitVec 16

/-- The 12-bit command word of 30_encoding.md R36 (log 12). -/
abbrev CommandWord := BitVec 12

end Sys2Proof
end

