-- ==== Sys2Proof/Syntax.lean ====
section
/-! DEFINITION. What the host can ask of the block: the fourteen commands (30_encoding.md R37), CPU transactions
(30_encoding.md R35), and the other requests of the host (10_state.md R19, 70_reset_and_hazards.md R82); the reasons a
command word spells no command (30_encoding.md R40); the lines of the assembler (30_encoding.md R42, R43). -/

namespace Sys2Proof

/-- The fourteen commands of 30_encoding.md R37, one constructor per row of spec/opcode_table.json. -/
inductive Instr where
  /-- `al.write d` (40_address_latch.md R45). -/
  | alWrite (d : Byte)
  /-- `al.inc s` (40_address_latch.md R46). -/
  | alInc (s : Byte)
  /-- `al.resetlatch` (40_address_latch.md R48). -/
  | alResetLatch
  /-- `al.getaddr` (40_address_latch.md R49). -/
  | alGetAddr
  /-- `cf.update d` (41_control_flags.md R55). -/
  | cfUpdate (d : Byte)
  /-- `cf.vraminc` (41_control_flags.md R56). -/
  | cfVramInc
  /-- `cf.isset NAMETABLE1` (41_control_flags.md R58). -/
  | cfIsSetNametable1
  /-- `cf.isset NAMETABLE2` (41_control_flags.md R59). -/
  | cfIsSetNametable2
  /-- `cf.isset VRAM_ADD_INCREMENT` (41_control_flags.md R60). -/
  | cfIsSetVramAddIncrement
  /-- `cf.isset SPRITE_PATTERN_ADDR` (41_control_flags.md R61). -/
  | cfIsSetSpritePatternAddr
  /-- `cf.isset BACKGROUND_PATTERN_ADDR` (41_control_flags.md R62). -/
  | cfIsSetBackgroundPatternAddr
  /-- `cf.isset SPRITE_SIZE` (41_control_flags.md R63). -/
  | cfIsSetSpriteSize
  /-- `cf.isset MASTER_SLAVE_SELECT` (41_control_flags.md R64). -/
  | cfIsSetMasterSlaveSelect
  /-- `cf.isset GENERATE_NMI` (41_control_flags.md R65). -/
  | cfIsSetGenerateNmi
deriving DecidableEq, Repr

/-- The eight named flags of `CF.ctrl`, in the order of 10_state.md R16 (log 11). -/
inductive Flag where
  | nametable1
  | nametable2
  | vramAddIncrement
  | spritePatternAddr
  | backgroundPatternAddr
  | spriteSize
  | masterSlaveSelect
  | generateNmi
deriving DecidableEq, Repr

/-- Why a command word spells no command: the three clauses of 30_encoding.md R40. -/
inductive CommandWordError where
  /-- `op` is one of 0x0, 0x5, 0x6, 0x7, 0xB .. 0xF. -/
  | reservedOp
  /-- `op` is 0x3, 0x4 or 0x9 and the operand is not 0x00. -/
  | operandNotZero
  /-- `op` is 0xA and `operand[7:3]` is not 0. -/
  | flagIndexTooLarge
deriving DecidableEq, Repr

/-- `rw` of a CPU transaction (30_encoding.md R35). -/
inductive Direction where
  | read
  | write
deriving DecidableEq, Repr

/-- A CPU access as the dispatcher receives it: the transactions of 30_encoding.md R35, one byte wide, and the request
wider than one byte that 20_memory.md R23 refuses. -/
inductive CpuAccess where
  /-- `(R, addr, none)`. -/
  | read (addr : Address)
  /-- `(W, addr, data)`. -/
  | write (addr : Address) (data : Byte)
  /-- A read or write of more than one byte; its data is not kept, since every such request is refused (log 8). -/
  | wide (rw : Direction) (addr : Address)
deriving DecidableEq, Repr

/-- Where the dispatcher's `PORT_DECODE` routes a CPU address (92_eei_decisions.md D13). -/
inductive Port where
  /-- AL, the video address register. -/
  | addressLatch
  /-- CF, the control register. -/
  | controlFlags
  /-- DATA, the companion data port. -/
  | dataPort
  /-- The address does not select the block. -/
  | unselected
deriving DecidableEq, Repr, Inhabited

/-- What may cause the dispatcher to issue a latch reset (70_reset_and_hazards.md R82; log 10). -/
inductive PlatformEvent where
  /-- A CPU access that none of the block's ports takes; the source's example, a status-register read, is one. -/
  | cpuAccess (access : CpuAccess)
  /-- Any other event of the platform, by number. -/
  | other (e : Nat)
deriving DecidableEq, Repr

/-- One request of the host. The model's "program" (10_state.md R18) is a list of these (log 2, log 3). -/
inductive Request where
  /-- A command word (30_encoding.md R36). -/
  | command (word : CommandWord)
  /-- A CPU access, decoded by the dispatcher (30_encoding.md R35). -/
  | cpu (access : CpuAccess)
  /-- A platform event that is no CPU access, by number; those in `LATCH_RESET_TRIGGERS` cause a latch reset
  (70_reset_and_hazards.md R82, log 10). -/
  | event (e : Nat)
  /-- Take the AL snapshot (10_state.md R19). -/
  | snapshotAl
  /-- Take the CF snapshot (10_state.md R19). -/
  | snapshotCf
  /-- Restore AL from the bytes 0, 1 and 2 of an AL snapshot (10_state.md R19). -/
  | restoreAl (b0 b1 b2 : Byte)
  /-- Restore CF from byte 0 of a CF snapshot (10_state.md R19). -/
  | restoreCf (b0 : Byte)
deriving DecidableEq, Repr

/-- One line of the assembler that is not blank: a command (30_encoding.md R42) or a pseudo-instruction (R43). -/
inductive AsmLine where
  | command (i : Instr)
  /-- `al.setaddr <imm16>`. -/
  | alSetAddr (a : Address)
  /-- `dp.advance`. -/
  | dpAdvance
deriving DecidableEq, Repr

end Sys2Proof
end

