-- ==== Sys2Proof/WellFormed.lean ====
section
/-! DEFINITION. Which terms of the syntax the spec gives a meaning, checked without the machine. -/

namespace Sys2Proof

/-- Every command is well formed: a byte operand may take any of its 256 values (00_scope.md R8, 30_encoding.md R38),
and a flag is one of eight constructors. The type `Byte` already shuts out an operand the encoding cannot hold. -/
def Instr.wellFormed : Instr → Bool
  | .alWrite _ => true
  | .alInc _ => true
  | .alResetLatch => true
  | .alGetAddr => true
  | .cfUpdate _ => true
  | .cfVramInc => true
  | .cfIsSetNametable1 => true
  | .cfIsSetNametable2 => true
  | .cfIsSetVramAddIncrement => true
  | .cfIsSetSpritePatternAddr => true
  | .cfIsSetBackgroundPatternAddr => true
  | .cfIsSetSpriteSize => true
  | .cfIsSetMasterSlaveSelect => true
  | .cfIsSetGenerateNmi => true

/-- The first clause of 30_encoding.md R40, as it lists the reserved `op` values. -/
def reservedOps : List Nat := [0x0, 0x5, 0x6, 0x7, 0xB, 0xC, 0xD, 0xE, 0xF]

/-- A command word spells a command when none of the three clauses of 30_encoding.md R40 holds of it. Written on the
word's number (`op` is the quotient by 256, the operand the remainder), apart from the decoder. -/
def CommandWord.wellFormed (w : CommandWord) : Bool :=
  let op := w.toNat / 256
  let operand := w.toNat % 256
  !(reservedOps.contains op)
    && !((op == 0x3 || op == 0x4 || op == 0x9) && operand != 0)
    && !(op == 0xA && operand / 8 != 0)

/-- A CPU access is one byte wide (20_memory.md R23). -/
def CpuAccess.wellFormed : CpuAccess → Bool
  | .read _ => true
  | .write _ _ => true
  | .wide _ _ => false

/-- The bytes of an AL snapshot can be restored: bits 7 and 6 of the high byte are 0 and the latch byte is 0x00 or 0x01
(10_state.md R19). -/
def alSnapshotWellFormed (b0 b2 : Byte) : Bool :=
  decide (b0.toNat < 64) && decide (b2.toNat ≤ 1)

/-- A request the syntax alone does not shut out. Whether a byte-wide CPU read is served depends on the port it decodes to
(20_memory.md R22), which `Request.admitted` adds in Safety. -/
def Request.wellFormed : Request → Bool
  | .command w => CommandWord.wellFormed w
  | .cpu a => a.wellFormed
  | .event _ => true
  | .snapshotAl => true
  | .snapshotCf => true
  | .restoreAl b0 _ b2 => alSnapshotWellFormed b0 b2
  | .restoreCf _ => true

end Sys2Proof
end

