-- ==== Sys2Proof/Decode.lean ====
section
/-! DEFINITION. Decoding and encoding of the 12-bit command word (30_encoding.md R36 to R41). The decoder is total, rejects
by name, and depends on nothing but the word (R41). -/

namespace Sys2Proof

/-- `op = word[11:8]` (30_encoding.md R36). -/
def opField (w : CommandWord) : BitVec 4 := w.extractLsb' 8 4

/-- `operand = word[7:0]`, taken unchanged (30_encoding.md R38). -/
def operandField (w : CommandWord) : Byte := w.extractLsb' 0 8

/-- A command that takes no operand: the operand field must be 0x00 (30_encoding.md R38, R40). -/
def decodeNoOperand (x : Byte) (i : Instr) : Except CommandWordError Instr :=
  if x = 0 then .ok i else .error .operandNotZero

/-- `cf.isset`: `operand[2:0]` is the flag's bit number and `operand[7:3]` must be 0 (30_encoding.md R38, R40). -/
def decodeIsSet (x : Byte) : Except CommandWordError Instr :=
  match x.toNat with
  | 0 => .ok .cfIsSetNametable1
  | 1 => .ok .cfIsSetNametable2
  | 2 => .ok .cfIsSetVramAddIncrement
  | 3 => .ok .cfIsSetSpritePatternAddr
  | 4 => .ok .cfIsSetBackgroundPatternAddr
  | 5 => .ok .cfIsSetSpriteSize
  | 6 => .ok .cfIsSetMasterSlaveSelect
  | 7 => .ok .cfIsSetGenerateNmi
  | _ => .error .flagIndexTooLarge

/-- The operation map of 30_encoding.md R37, with R40's refusals. -/
def decode (w : CommandWord) : Except CommandWordError Instr :=
  let x := operandField w
  match (opField w).toNat with
  | 0x1 => .ok (.alWrite x)
  | 0x2 => .ok (.alInc x)
  | 0x3 => decodeNoOperand x .alResetLatch
  | 0x4 => decodeNoOperand x .alGetAddr
  | 0x8 => .ok (.cfUpdate x)
  | 0x9 => decodeNoOperand x .cfVramInc
  | 0xA => decodeIsSet x
  | _ => .error .reservedOp

/-- A command word put together from its fields (30_encoding.md R36). -/
def commandWord (op : BitVec 4) (operand : Byte) : CommandWord := op ++ operand

/-- The word of each command, from the `encoding` column of 30_encoding.md R37. -/
def encode : Instr → CommandWord
  | .alWrite d => commandWord 0x1 d
  | .alInc s => commandWord 0x2 s
  | .alResetLatch => commandWord 0x3 0x00
  | .alGetAddr => commandWord 0x4 0x00
  | .cfUpdate d => commandWord 0x8 d
  | .cfVramInc => commandWord 0x9 0x00
  | .cfIsSetNametable1 => commandWord 0xA 0x00
  | .cfIsSetNametable2 => commandWord 0xA 0x01
  | .cfIsSetVramAddIncrement => commandWord 0xA 0x02
  | .cfIsSetSpritePatternAddr => commandWord 0xA 0x03
  | .cfIsSetBackgroundPatternAddr => commandWord 0xA 0x04
  | .cfIsSetSpriteSize => commandWord 0xA 0x05
  | .cfIsSetMasterSlaveSelect => commandWord 0xA 0x06
  | .cfIsSetGenerateNmi => commandWord 0xA 0x07

/-- One row of the operation map (30_encoding.md R37): a word is in the row when `word & mask = pattern`. -/
structure OpcodeRow where
  pattern : CommandWord
  mask    : CommandWord
deriving DecidableEq, Repr

/-- Whether a word is in a row of the operation map. -/
def OpcodeRow.matches (r : OpcodeRow) (w : CommandWord) : Bool := w &&& r.mask == r.pattern

/-- The `match` and `mask` columns of 30_encoding.md R37 for the row of each command. -/
def Instr.row : Instr → OpcodeRow
  | .alWrite _ => ⟨0x100, 0xF00⟩
  | .alInc _ => ⟨0x200, 0xF00⟩
  | .alResetLatch => ⟨0x300, 0xFFF⟩
  | .alGetAddr => ⟨0x400, 0xFFF⟩
  | .cfUpdate _ => ⟨0x800, 0xF00⟩
  | .cfVramInc => ⟨0x900, 0xFFF⟩
  | .cfIsSetNametable1 => ⟨0xA00, 0xFFF⟩
  | .cfIsSetNametable2 => ⟨0xA01, 0xFFF⟩
  | .cfIsSetVramAddIncrement => ⟨0xA02, 0xFFF⟩
  | .cfIsSetSpritePatternAddr => ⟨0xA03, 0xFFF⟩
  | .cfIsSetBackgroundPatternAddr => ⟨0xA04, 0xFFF⟩
  | .cfIsSetSpriteSize => ⟨0xA05, 0xFFF⟩
  | .cfIsSetMasterSlaveSelect => ⟨0xA06, 0xFFF⟩
  | .cfIsSetGenerateNmi => ⟨0xA07, 0xFFF⟩

/-- The fourteen rows of 30_encoding.md R37, in its order. -/
def opcodeTable : List OpcodeRow :=
  [.alWrite 0, .alInc 0, .alResetLatch, .alGetAddr, .cfUpdate 0, .cfVramInc, .cfIsSetNametable1, .cfIsSetNametable2,
    .cfIsSetVramAddIncrement, .cfIsSetSpritePatternAddr, .cfIsSetBackgroundPatternAddr, .cfIsSetSpriteSize,
    .cfIsSetMasterSlaveSelect, .cfIsSetGenerateNmi].map Instr.row

/-- The command word that the bits `w`, numbered from the least significant bit, hold. A command word has bits 11:0 and no
others, so a number with a higher bit holds none (log 12). -/
def tableWord (w : Nat) : Option CommandWord := if w < 4096 then some (BitVec.ofNat 12 w) else none

/-- The instruction this decoder reads from the bits `w` of an opcode-table row. Every command has the one length of
30_encoding.md R36, so `nbits` (its 12 bits in whole bytes) says nothing more. -/
def decodeTableWord (_nbits w : Nat) : Option Instr := (tableWord w).bind fun cw => (decode cw).toOption

end Sys2Proof
end

