-- ==== Sys2Proof/Config.lean ====
section
/-! DEFINITION. What the block's caller settles and the spec leaves open (00_scope.md section 4): three parameters, each a
constant without a body, so that no proof can see its value. The values the spec does fix (00_scope.md R6) stand beside
the operations that use them. The spec leaves no behaviour of the block itself open (93_implementation_defined.md
section 1), so there is no free value. -/

namespace Sys2Proof

/-- `DATA_PORT` (20_memory.md R31, 92_eei_decisions.md D14), as its place among the 65534 CPU addresses that are not the
two ports of 20_memory.md R21: the address itself is `Machine.dataPort` (log 5). -/
opaque Config.dataPortIndex : Fin 65534

/-- `PORT_DECODE` at every CPU address but the ones the spec fixes (20_memory.md R21, 92_eei_decisions.md D13; log 6).
The whole decode is `Machine.portDecode`. -/
opaque Config.portDecodeElsewhere : Address → Port

/-- `LATCH_RESET_TRIGGERS`: whether the dispatcher issues a latch reset on the platform event `e`
(70_reset_and_hazards.md R82, 92_eei_decisions.md D21; log 10). -/
opaque Config.latchResetTrigger (e : PlatformEvent) : Bool

end Sys2Proof
end

