-- ==== Sys2Proof/Machine/State.lean ====
section
/-! DEFINITION. The state of the block and of its host, the reasons a step can stop, and the state after power-on. -/

namespace Sys2Proof.Machine

/-- AddressLatch (10_state.md R10, R11, R12). -/
structure AddressLatch where
  /-- `AL.hi`, the high byte of the video address; bits 7:6 are 0 in every state that meets R13. -/
  hi : Byte
  /-- `AL.lo`, the low byte of the video address. -/
  lo : Byte
  /-- `AL.w`, the latch flag: true is 1, EXPECT_HIGH; false is 0, EXPECT_LOW. -/
  w  : Bool
deriving DecidableEq, Repr

/-- ControlFlags (10_state.md R15). -/
structure ControlFlags where
  /-- `CF.ctrl`, eight packed flags (10_state.md R16). -/
  ctrl : Byte
deriving DecidableEq, Repr

/-- What a request returns to the host: the responses of 30_encoding.md R39, with its widths, and the snapshot bytes of
10_state.md R19. -/
inductive Response where
  /-- `al.getaddr`: 16 bits. -/
  | address (a : Address)
  /-- `cf.vraminc`: 8 bits. -/
  | step (s : Byte)
  /-- `cf.isset`: 1 bit. -/
  | flag (b : Bool)
  /-- The AL snapshot, bytes 0, 1, 2. -/
  | alSnapshot (b0 b1 b2 : Byte)
  /-- The CF snapshot, byte 0. -/
  | cfSnapshot (b0 : Byte)
deriving DecidableEq, Repr

/-- The block's four registers (10_state.md R17), its response output (30_encoding.md R39), and the host's list of
requests with the index of the next one (10_state.md R18). The block has no memory (20_memory.md R20). -/
structure State where
  /-- AddressLatch. -/
  al        : AddressLatch
  /-- ControlFlags. -/
  cf        : ControlFlags
  /-- What the last request returned, in order; empty where it returned nothing (log 1). -/
  responses : List Response
  /-- The model's "program": the requests the host issues, in order (log 2, log 3). -/
  program   : List Request
  /-- The model's "pc": the index in `program` of the next request. -/
  pc        : Nat
deriving DecidableEq, Repr

/-- The block raises no exception and no operation traps under any operand or state (60_exceptions.md R70, R74), so there
is no fault: this type has no value, nothing raises one, and that no step faults is exact (log 15). -/
inductive Fault where
deriving DecidableEq, Repr

/-- Refusals belong to the model and never stand for a hardware reaction; a refused request changes no state and returns
no response (60_exceptions.md R72). -/
inductive Refusal where
  /-- Raised by `exec` for an instruction that has no meaning yet. Safe: nothing can be proved about what it does. No arm
  answers this. -/
  | notModelled (mnemonic : String)
  /-- Raised by `serve` for a command word that spells no command (30_encoding.md R40). Safe: no call of the source's
  interface is refused (92_eei_decisions.md D2). -/
  | reservedCommand (reason : CommandWordError)
  /-- Raised by `busAccess` for a CPU read of the port of AL or CF (20_memory.md R22). Safe (92_eei_decisions.md D10). -/
  | cpuReadOfRegisterPort
  /-- Raised by `busAccess` for an access wider than one byte (20_memory.md R23). Safe (92_eei_decisions.md D15). -/
  | accessWiderThanByte
  /-- Raised by `restoreAl` for a snapshot that breaks the invariant or whose latch byte is not 0x00 or 0x01
  (10_state.md R19). Safe (92_eei_decisions.md D11). -/
  | invalidSnapshot
  /-- Raised by `step` when no request is left: the run has ended (10_state.md R18, 92_eei_decisions.md D19). Safe: the
  block does nothing by itself (00_scope.md R7), so there is no step to take. -/
  | runEnded
deriving DecidableEq, Repr

/-- Power-on (70_reset_and_hazards.md R80, 10_state.md R10, R11, R12, R15). No request has been issued: nothing has been
returned, and no program is placed (log 1, log 2). -/
def State.reset : State where
  al        := { hi := 0x00, lo := 0x00, w := true }
  cf        := { ctrl := 0x00 }
  responses := []
  program   := []
  pc        := 0

end Sys2Proof.Machine
end

