-- ==== Sys2Proof/Machine/Flags.lean ====
section
/-! DEFINITION. The flags of `CF.ctrl` (10_state.md R16), their predicates, and the increment step derived from them
(41_control_flags.md R56, R57). The block has no condition codes, and computes nothing else from `CF.ctrl`
(41_control_flags.md R68). -/

namespace Sys2Proof.Machine

/-- The bit number of a flag (10_state.md R16; bit 2 is the source's, the others follow the list's order, log 11). -/
def flagBit : Flag → Nat
  | .nametable1 => 0
  | .nametable2 => 1
  | .vramAddIncrement => 2
  | .spritePatternAddr => 3
  | .backgroundPatternAddr => 4
  | .spriteSize => 5
  | .masterSlaveSelect => 6
  | .generateNmi => 7

/-- `F.mask = 1 << f` (41_control_flags.md R57). -/
def flagMask (f : Flag) : Byte := 1 <<< flagBit f

/-- The predicate `is_set(F) = (CF.ctrl & F.mask) != 0` (41_control_flags.md R57). -/
def ControlFlags.isSet (f : Flag) (c : ControlFlags) : Bool := (c.ctrl &&& flagMask f) != 0

/-- `INC_SMALL` (00_scope.md R6). -/
def incSmall : Byte := 1

/-- `INC_LARGE` (00_scope.md R6). -/
def incLarge : Byte := 32

/-- `VRAM_ADD_INCREMENT.mask` (00_scope.md R6), which the source gives as a number of its own. -/
def vramAddIncrementMask : Byte := 0b00000100

/-- `vram_addr_increment` (41_control_flags.md R56). -/
def ControlFlags.vramAddrIncrement (c : ControlFlags) : Byte :=
  if c.ctrl &&& vramAddIncrementMask != 0 then incLarge else incSmall

/-- `update(data)`: the stored byte is replaced whole (41_control_flags.md R55). -/
def ControlFlags.update (d : Byte) (c : ControlFlags) : ControlFlags := { c with ctrl := d }

/-- The eight flags, bit 0 first (10_state.md R16). -/
def allFlags : List Flag :=
  [.nametable1, .nametable2, .vramAddIncrement, .spritePatternAddr, .backgroundPatternAddr, .spriteSize,
    .masterSlaveSelect, .generateNmi]

/-- The byte put together from the eight predicates, `sum over f of (isset(F_f) << f)` (41_control_flags.md R66). -/
def ControlFlags.reconstruct (c : ControlFlags) : Nat :=
  (allFlags.map fun f => (c.isSet f).toNat <<< flagBit f).sum

end Sys2Proof.Machine
end

