-- ==== Sys2Proof/Machine/Operands.lean ====
section
/-! DEFINITION. The 16-bit video address as a pair of bytes, and the 14-bit mask (00_scope.md R6, 10_state.md R13, R14). -/

namespace Sys2Proof.Machine

/-- `ADDR_MASK` (00_scope.md R6): the 14-bit mask. -/
def addrMask : Address := 0x3FFF

/-- The concatenation `(zext_16(hi) << 8) | zext_16(lo)` (00_scope.md section 6, 10_state.md R14). -/
def joinBytes (hi lo : Byte) : Address := (hi.setWidth 16 <<< 8) ||| lo.setWidth 16

/-- Bits 15:8 of an address. -/
def highByte (a : Address) : Byte := a.extractLsb' 8 8

/-- Bits 7:0 of an address. -/
def lowByte (a : Address) : Byte := a.extractLsb' 0 8

end Sys2Proof.Machine
end

