-- ==== Sys2Proof/Machine/Ops.lean ====
section
/-! DEFINITION. The named operations over the registers: AddressLatch's (40_address_latch.md), and the two that touch the
host's side of State, completing a request and placing one. ControlFlags's are in Flags. There is no exception entry and no
return from one: nothing traps (60_exceptions.md R70, R74). -/

namespace Sys2Proof.Machine

/-- The video address `{AL.hi, AL.lo}` (10_state.md R14), `get_address` (40_address_latch.md R49). -/
def AddressLatch.address (l : AddressLatch) : Address := joinBytes l.hi l.lo

/-- `{AL.hi, AL.lo} <- a`. -/
def AddressLatch.setAddress (a : Address) (l : AddressLatch) : AddressLatch :=
  { l with hi := highByte a, lo := lowByte a }

/-- The fold `{AL.hi, AL.lo} <- {AL.hi, AL.lo} & 0x3FFF` that ends every write and increment (10_state.md R13); applied
always, as 40_address_latch.md R53 allows. -/
def AddressLatch.fold (l : AddressLatch) : AddressLatch := l.setAddress (l.address &&& addrMask)

/-- The first part of `write_byte`: the byte the latch flag selects takes the data (40_address_latch.md R45). -/
def AddressLatch.storeSelected (d : Byte) (l : AddressLatch) : AddressLatch :=
  if l.w then { l with hi := d } else { l with lo := d }

/-- `AL.w <- ~AL.w` (40_address_latch.md R45). -/
def AddressLatch.toggle (l : AddressLatch) : AddressLatch := { l with w := !l.w }

/-- `write_byte(data)` (40_address_latch.md R45): store, toggle, fold, in that order. -/
def AddressLatch.writeByte (d : Byte) (l : AddressLatch) : AddressLatch := (l.storeSelected d).toggle.fold

/-- The addition of `increment`, before its fold (40_address_latch.md R46): the low byte wraps at 8 bits, and where it
wrapped the high byte is incremented with its own 8-bit wraparound (never reached, R54). -/
def AddressLatch.addStep (s : Byte) (l : AddressLatch) : AddressLatch :=
  { l with lo := l.lo + s, hi := if l.lo + s < l.lo then l.hi + 1 else l.hi }

/-- `increment(step)` (40_address_latch.md R46). -/
def AddressLatch.increment (s : Byte) (l : AddressLatch) : AddressLatch := (l.addStep s).fold

/-- The 16-bit form of `increment` that the source permits (40_address_latch.md R47). No step uses it: that it is equal to
`increment` is a claim. -/
def AddressLatch.increment16 (s : Byte) (l : AddressLatch) : AddressLatch :=
  l.setAddress ((l.address + s.setWidth 16) &&& addrMask)

/-- `reset_latch()` (40_address_latch.md R48). -/
def AddressLatch.resetLatch (l : AddressLatch) : AddressLatch := { l with w := true }

/-- The request is complete: its responses stand on the response output (30_encoding.md R39) and the host's index moves to
the next request (10_state.md R18). -/
def State.finish (rs : List Response) (s : State) : State := { s with responses := rs, pc := s.pc + 1 }

/-- The request the host issues next, if one is left (10_state.md R18). -/
def State.nextRequest (s : State) : Option Request := s.program[s.pc]?

/-- `s` with the request `r` at the index of the next request, so that it is issued next. Where the list is too short to
have that index, requests of the reserved word 0x000, which are never issued, fill it up. -/
def State.placeRequest (r : Request) (s : State) : State :=
  { s with
    program := s.program.take s.pc ++ List.replicate (s.pc - s.program.length) (.command 0) ++ r :: s.program.drop (s.pc + 1) }

end Sys2Proof.Machine
end

