-- ==== Sys2Proof/Machine/AddressLatch.lean ====
section
/-! DEFINITION. The meanings of the AddressLatch commands (40_address_latch.md section 1). None of them touches CF
(10_state.md R17), none takes an exception (40_address_latch.md R51). -/

namespace Sys2Proof.Machine

/-- `al.write d` (40_address_latch.md R45). -/
def execAlWrite (d : Byte) (s : State) : Host.Outcome State Fault Refusal :=
  .next (State.finish [] { s with al := s.al.writeByte d })

/-- `al.inc step` (40_address_latch.md R46). -/
def execAlInc (step : Byte) (s : State) : Host.Outcome State Fault Refusal :=
  .next (State.finish [] { s with al := s.al.increment step })

/-- `al.resetlatch` (40_address_latch.md R48). -/
def execAlResetLatch (s : State) : Host.Outcome State Fault Refusal :=
  .next (State.finish [] { s with al := s.al.resetLatch })

/-- `al.getaddr` (40_address_latch.md R49). -/
def execAlGetAddr (s : State) : Host.Outcome State Fault Refusal :=
  .next (s.finish [.address s.al.address])

end Sys2Proof.Machine
end

