-- ==== Sys2Proof/Machine/ControlFlags.lean ====
section
/-! DEFINITION. The meanings of the ControlFlags commands (41_control_flags.md sections 1 to 3). None of them touches AL
(10_state.md R17), none takes an exception (41_control_flags.md R67). -/

namespace Sys2Proof.Machine

/-- `cf.update d` (41_control_flags.md R55). -/
def execCfUpdate (d : Byte) (s : State) : Host.Outcome State Fault Refusal :=
  .next (State.finish [] { s with cf := s.cf.update d })

/-- `cf.vraminc` (41_control_flags.md R56). -/
def execCfVramInc (s : State) : Host.Outcome State Fault Refusal :=
  .next (s.finish [.step s.cf.vramAddrIncrement])

/-- `cf.isset f` (41_control_flags.md R57), shared by the eight commands below. -/
def answerFlag (f : Flag) (s : State) : Host.Outcome State Fault Refusal :=
  .next (s.finish [.flag (s.cf.isSet f)])

/-- `cf.isset NAMETABLE1` (41_control_flags.md R58). -/
def execCfIsSetNametable1 (s : State) : Host.Outcome State Fault Refusal := answerFlag .nametable1 s

/-- `cf.isset NAMETABLE2` (41_control_flags.md R59). -/
def execCfIsSetNametable2 (s : State) : Host.Outcome State Fault Refusal := answerFlag .nametable2 s

/-- `cf.isset VRAM_ADD_INCREMENT` (41_control_flags.md R60). -/
def execCfIsSetVramAddIncrement (s : State) : Host.Outcome State Fault Refusal := answerFlag .vramAddIncrement s

/-- `cf.isset SPRITE_PATTERN_ADDR` (41_control_flags.md R61). -/
def execCfIsSetSpritePatternAddr (s : State) : Host.Outcome State Fault Refusal := answerFlag .spritePatternAddr s

/-- `cf.isset BACKGROUND_PATTERN_ADDR` (41_control_flags.md R62). -/
def execCfIsSetBackgroundPatternAddr (s : State) : Host.Outcome State Fault Refusal := answerFlag .backgroundPatternAddr s

/-- `cf.isset SPRITE_SIZE` (41_control_flags.md R63). -/
def execCfIsSetSpriteSize (s : State) : Host.Outcome State Fault Refusal := answerFlag .spriteSize s

/-- `cf.isset MASTER_SLAVE_SELECT` (41_control_flags.md R64). -/
def execCfIsSetMasterSlaveSelect (s : State) : Host.Outcome State Fault Refusal := answerFlag .masterSlaveSelect s

/-- `cf.isset GENERATE_NMI` (41_control_flags.md R65). It raises no interrupt (60_exceptions.md R71). -/
def execCfIsSetGenerateNmi (s : State) : Host.Outcome State Fault Refusal := answerFlag .generateNmi s

end Sys2Proof.Machine
end

