-- ==== Sys2Proof/Machine/Bus.lean ====
section
/-! DEFINITION. The dispatcher's duties toward the block: the CPU port decode and its transactions (30_encoding.md R35,
20_memory.md R21 to R23), the data-port sequence (20_memory.md R31), and the latch-reset trigger
(70_reset_and_hazards.md R82). -/

namespace Sys2Proof.Machine

/-- `PORT_ADDR`, the CPU port of AL (00_scope.md R6, 20_memory.md R21). -/
def portAddr : Address := 0x2006

/-- `PORT_CTRL`, the CPU port of CF (00_scope.md R6, 20_memory.md R21). -/
def portCtrl : Address := 0x2000

/-- `DATA_PORT` (20_memory.md R31): any CPU address but `PORT_CTRL` (0x2000) and `PORT_ADDR` (0x2006), each reached by
exactly one value of the open parameter (log 5). -/
def dataPort : Address :=
  let n := Config.dataPortIndex.val
  BitVec.ofNat 16 (if n < 0x2000 then n else if n < 0x2005 then n + 1 else n + 2)

/-- `PORT_DECODE` (92_eei_decisions.md D13): fixed at the two port addresses, the data port at `DATA_PORT`, and left open
at every other address (log 6). -/
def portDecode (a : Address) : Port :=
  if a = portAddr then .addressLatch
  else if a = portCtrl then .controlFlags
  else if a = dataPort then .dataPort
  else Config.portDecodeElsewhere a

/-- The data-port sequence (20_memory.md R31): get the address, access there (by logic outside the block, 00_scope.md R4),
query the step, increment. The address of the access and the step stand on the response output in that order (log 4). -/
def dataPortAccess (s : State) : Host.Outcome State Fault Refusal :=
  let a := s.al.address
  let step := s.cf.vramAddrIncrement
  .next (State.finish [.address a, .step step] { s with al := s.al.increment step })

/-- What neither reaches a port of the block nor triggers a latch reset leaves its registers as they are
(60_exceptions.md R79; log 9). -/
def notSelected (s : State) : Host.Outcome State Fault Refusal := .next (s.finish [])

/-- A platform event: on one of `LATCH_RESET_TRIGGERS` the dispatcher issues `al.resetlatch` (70_reset_and_hazards.md R82,
20_memory.md R32); on any other it issues nothing (log 9). Which events can be in the set is log 10: every CPU access that no
port of the block takes, as the source's example is, and every event that is no CPU access. -/
def platformEvent (e : PlatformEvent) (s : State) : Host.Outcome State Fault Refusal :=
  if Config.latchResetTrigger e then execAlResetLatch s else notSelected s

/-- A CPU write of `d` to the address `a` (30_encoding.md R35). A write that a port of the block takes is that port's one
operation and no trigger besides (log 10, the model's choice); any other may be a trigger (70_reset_and_hazards.md R82). -/
def busWrite (a : Address) (d : Byte) (s : State) : Host.Outcome State Fault Refusal :=
  match portDecode a with
  | .addressLatch => execAlWrite d s
  | .controlFlags => execCfUpdate d s
  | .dataPort => dataPortAccess s
  | .unselected => platformEvent (.cpuAccess (.write a d)) s

/-- A CPU read of the address `a` (30_encoding.md R35, 20_memory.md R22; log 7). A read that the data port takes is its
sequence and no trigger besides (log 10, the model's choice); one that no port takes, such as a status-register read, may be a
trigger (70_reset_and_hazards.md R82). -/
def busRead (a : Address) (s : State) : Host.Outcome State Fault Refusal :=
  match portDecode a with
  | .addressLatch => .refused .cpuReadOfRegisterPort
  | .controlFlags => .refused .cpuReadOfRegisterPort
  | .dataPort => dataPortAccess s
  | .unselected => platformEvent (.cpuAccess (.read a)) s

/-- A CPU access (30_encoding.md R35, 20_memory.md R23; log 8). -/
def busAccess (c : CpuAccess) (s : State) : Host.Outcome State Fault Refusal :=
  match c with
  | .read a => busRead a s
  | .write a d => busWrite a d s
  | .wide _ _ => .refused .accessWiderThanByte

end Sys2Proof.Machine
end

