-- ==== Sys2Proof/Machine/Dispatch.lean ====
section
/-! DEFINITION. One arm per command of 30_encoding.md R37. -/

namespace Sys2Proof.Machine

def exec (i : Instr) (s : State) : Host.Outcome State Fault Refusal :=
  match i with
  | .alWrite d => Sys2Proof.Machine.execAlWrite d s
  | .alInc step => Sys2Proof.Machine.execAlInc step s
  | .alResetLatch => Sys2Proof.Machine.execAlResetLatch s
  | .alGetAddr => Sys2Proof.Machine.execAlGetAddr s
  | .cfUpdate d => Sys2Proof.Machine.execCfUpdate d s
  | .cfVramInc => Sys2Proof.Machine.execCfVramInc s
  | .cfIsSetNametable1 => Sys2Proof.Machine.execCfIsSetNametable1 s
  | .cfIsSetNametable2 => Sys2Proof.Machine.execCfIsSetNametable2 s
  | .cfIsSetVramAddIncrement => Sys2Proof.Machine.execCfIsSetVramAddIncrement s
  | .cfIsSetSpritePatternAddr => Sys2Proof.Machine.execCfIsSetSpritePatternAddr s
  | .cfIsSetBackgroundPatternAddr => Sys2Proof.Machine.execCfIsSetBackgroundPatternAddr s
  | .cfIsSetSpriteSize => Sys2Proof.Machine.execCfIsSetSpriteSize s
  | .cfIsSetMasterSlaveSelect => Sys2Proof.Machine.execCfIsSetMasterSlaveSelect s
  | .cfIsSetGenerateNmi => Sys2Proof.Machine.execCfIsSetGenerateNmi s

end Sys2Proof.Machine
end

