-- ==== Sys2Proof/Machine/Snapshot.lean ====
section
/-! DEFINITION. Snapshot and restore of each component (10_state.md R19, 70_reset_and_hazards.md R89): the only whole-state
observation of the block (60_exceptions.md R78). The byte encoding is the spec's (log 13). -/

namespace Sys2Proof.Machine

/-- AL snapshot byte 2: `AL.w` as 0x01 (true) or 0x00 (false) (10_state.md R19). -/
def latchByte (w : Bool) : Byte := if w then 0x01 else 0x00

/-- The latch flag an AL snapshot's byte 2 stands for; none where it is neither 0x00 nor 0x01 (10_state.md R19). -/
def latchOfByte (b : Byte) : Option Bool :=
  if b = 0x01 then some true else if b = 0x00 then some false else none

/-- Take the AL snapshot: the bytes `AL.hi`, `AL.lo`, `AL.w`; no register changes (10_state.md R19). -/
def takeSnapshotAl (s : State) : Host.Outcome State Fault Refusal :=
  .next (s.finish [.alSnapshot s.al.hi s.al.lo (latchByte s.al.w)])

/-- Take the CF snapshot: the byte `CF.ctrl`; no register changes (10_state.md R19). -/
def takeSnapshotCf (s : State) : Host.Outcome State Fault Refusal :=
  .next (s.finish [.cfSnapshot s.cf.ctrl])

/-- Restore AL: the fields are written back exactly; a high byte with bit 7 or 6 set, or a latch byte that is not 0x00 or
0x01, is refused (10_state.md R19). -/
def restoreAl (b0 b1 b2 : Byte) (s : State) : Host.Outcome State Fault Refusal :=
  if b0 &&& 0xC0 != 0 then .refused .invalidSnapshot
  else
    match latchOfByte b2 with
    | some w => .next (State.finish [] { s with al := { hi := b0, lo := b1, w := w } })
    | none => .refused .invalidSnapshot

/-- Restore CF: every byte is legal (10_state.md R15, R19). -/
def restoreCf (b0 : Byte) (s : State) : Host.Outcome State Fault Refusal :=
  .next (State.finish [] { s with cf := { ctrl := b0 } })

end Sys2Proof.Machine
end

