-- ==== Sys2Proof/Machine/Requests.lean ====
section
/-! DEFINITION. One request of the host served whole, and a list of commands executed in order (20_memory.md R27). -/

namespace Sys2Proof.Machine

/-- A command word is decoded (30_encoding.md R41) and its command executed; a word that spells no command is refused
(30_encoding.md R40, 60_exceptions.md R72). -/
def serveCommand (w : CommandWord) (s : State) : Host.Outcome State Fault Refusal :=
  match decode w with
  | .ok i => exec i s
  | .error e => .refused (.reservedCommand e)

/-- One request of the host. -/
def serve (r : Request) (s : State) : Host.Outcome State Fault Refusal :=
  match r with
  | .command w => serveCommand w s
  | .cpu c => busAccess c s
  | .event e => platformEvent (.other e) s
  | .snapshotAl => takeSnapshotAl s
  | .snapshotCf => takeSnapshotCf s
  | .restoreAl b0 b1 b2 => restoreAl b0 b1 b2 s
  | .restoreCf b0 => restoreCf b0 s

/-- The commands of a list executed in list order, each on the state the one before it left (10_state.md R18,
20_memory.md R27). -/
def execAll : List Instr → State → Host.Outcome State Fault Refusal
  | [], s => .next s
  | i :: is, s =>
    match exec i s with
    | .next t => execAll is t
    | .fault f => .fault f
    | .refused r => .refused r

end Sys2Proof.Machine
end

