-- ==== Sys2Proof/Machine/Step.lean ====
section
/-! DEFINITION. One step: the next request of the host's list is served (10_state.md R18). -/

namespace Sys2Proof.Machine

/-- One step. When no request is left the run has ended, and the block, which issues nothing by itself (00_scope.md R7),
takes no step (10_state.md R18). -/
def step (s : State) : Host.Outcome State Fault Refusal :=
  match s.nextRequest with
  | some r => serve r s
  | none => .refused .runEnded

/-- `s` with the command word that the bits `w` hold as the host's next request. A number that holds no command word
(log 12) stands as the reserved word 0x000, which the step refuses. -/
def State.withFetchWord (s : State) (_nbits w : Nat) : State :=
  s.placeRequest (.command ((tableWord w).getD 0x000))

end Sys2Proof.Machine
end

