-- ==== Sys2Proof/Machine/Assembler.lean ====
section
/-! DEFINITION. The assembler notation of 30_encoding.md R42 and the pseudo-instructions of R43. It is notation only
(92_eei_decisions.md D4): no step reads it. -/

namespace Sys2Proof.Machine

/-- The spelling of a flag (10_state.md R16). -/
def flagName : Flag → String
  | .nametable1 => "NAMETABLE1"
  | .nametable2 => "NAMETABLE2"
  | .vramAddIncrement => "VRAM_ADD_INCREMENT"
  | .spritePatternAddr => "SPRITE_PATTERN_ADDR"
  | .backgroundPatternAddr => "BACKGROUND_PATTERN_ADDR"
  | .spriteSize => "SPRITE_SIZE"
  | .masterSlaveSelect => "MASTER_SLAVE_SELECT"
  | .generateNmi => "GENERATE_NMI"

/-- The command `cf.isset F` (30_encoding.md R37). -/
def isSetCommand : Flag → Instr
  | .nametable1 => .cfIsSetNametable1
  | .nametable2 => .cfIsSetNametable2
  | .vramAddIncrement => .cfIsSetVramAddIncrement
  | .spritePatternAddr => .cfIsSetSpritePatternAddr
  | .backgroundPatternAddr => .cfIsSetBackgroundPatternAddr
  | .spriteSize => .cfIsSetSpriteSize
  | .masterSlaveSelect => .cfIsSetMasterSlaveSelect
  | .generateNmi => .cfIsSetGenerateNmi

/-- The decimal digits, each at the place of its value. -/
def decimalDigits : List Char := "0123456789".toList

/-- The hexadecimal digits, each at the place of its value, as the spec writes them (`0x7F`, `0xA5`). -/
def hexDigits : List Char := decimalDigits ++ "ABCDEF".toList

/-- The hexadecimal digits with small letters (log 19). -/
def smallHexDigits : List Char := decimalDigits ++ "abcdef".toList

/-- The value of a decimal digit: its place in the table. -/
def decimalDigit (c : Char) : Option Nat := decimalDigits.idxOf? c

/-- The value of a hexadecimal digit: its place in either table (log 19). -/
def hexDigit (c : Char) : Option Nat := (hexDigits.idxOf? c).or (smallHexDigits.idxOf? c)

/-- The number that digits spell, after the digits that spell `acc`. -/
def digitsValue (base : Nat) (digit : Char → Option Nat) (acc : Nat) : List Char → Option Nat
  | [] => some acc
  | c :: cs => (digit c).bind fun d => digitsValue base digit (acc * base + d) cs

/-- A decimal or `0x` hexadecimal number (30_encoding.md R42). -/
def number : List Char → Option Nat
  | [] => none
  | ['0', 'x'] => none
  | '0' :: 'x' :: cs => digitsValue 16 hexDigit 0 cs
  | cs => digitsValue 10 decimalDigit 0 cs

/-- `<imm8>`: a number from 0 to 255; any other value spells no command (30_encoding.md R42). -/
def imm8 (cs : List Char) : Option Byte :=
  (number cs).bind fun n => if n ≤ 255 then some (BitVec.ofNat 8 n) else none

/-- `<imm16>` of `al.setaddr` (30_encoding.md R43): a number of 16 bits. -/
def imm16 (cs : List Char) : Option Address :=
  (number cs).bind fun n => if n ≤ 65535 then some (BitVec.ofNat 16 n) else none

/-- `<FLAG>`: one of the eight names, spelled exactly (30_encoding.md R42). -/
def parseFlag (cs : List Char) : Option Flag := allFlags.find? fun f => (flagName f).toList == cs

/-- The words of a line, `acc` being the one begun: a space or a tab ends a word, and `;` begins a comment that runs to the
end of the line (30_encoding.md R42). -/
def lineWords (acc : List Char) : List Char → List (List Char)
  | [] => if acc.isEmpty then [] else [acc]
  | c :: cs =>
    if c = ';' then (if acc.isEmpty then [] else [acc])
    else if c = ' ' ∨ c = '\t' then (if acc.isEmpty then lineWords [] cs else acc :: lineWords [] cs)
    else lineWords (acc ++ [c]) cs

/-- A line without an operand. -/
def parseBare (m : List Char) : Option AsmLine :=
  if m = "al.resetlatch".toList then some (.command .alResetLatch)
  else if m = "al.getaddr".toList then some (.command .alGetAddr)
  else if m = "cf.vraminc".toList then some (.command .cfVramInc)
  else if m = "dp.advance".toList then some .dpAdvance
  else none

/-- A line with one operand. -/
def parseWithOperand (m x : List Char) : Option AsmLine :=
  if m = "al.write".toList then (imm8 x).map fun d => .command (.alWrite d)
  else if m = "al.inc".toList then (imm8 x).map fun s => .command (.alInc s)
  else if m = "cf.update".toList then (imm8 x).map fun d => .command (.cfUpdate d)
  else if m = "cf.isset".toList then (parseFlag x).map fun f => .command (isSetCommand f)
  else if m = "al.setaddr".toList then (imm16 x).map .alSetAddr
  else none

/-- One line (30_encoding.md R42): none where it spells no command, `some none` where it is blank or a comment. -/
def parseLine (cs : List Char) : Option (Option AsmLine) :=
  match lineWords [] cs with
  | [] => some none
  | [m] => (parseBare m).map some
  | [m, x] => (parseWithOperand m x).map some
  | _ => none

/-- The digit that stands for a value below 16. -/
def hexChar (n : Nat) : Char := hexDigits.getD n '0'

/-- A byte as `0x` and two hexadecimal digits. -/
def renderByte (b : Byte) : List Char := ['0', 'x', hexChar (b.toNat / 16), hexChar (b.toNat % 16)]

/-- The line of each command (30_encoding.md R42). -/
def renderCommand : Instr → List Char
  | .alWrite d => "al.write ".toList ++ renderByte d
  | .alInc s => "al.inc ".toList ++ renderByte s
  | .alResetLatch => "al.resetlatch".toList
  | .alGetAddr => "al.getaddr".toList
  | .cfUpdate d => "cf.update ".toList ++ renderByte d
  | .cfVramInc => "cf.vraminc".toList
  | .cfIsSetNametable1 => "cf.isset ".toList ++ (flagName .nametable1).toList
  | .cfIsSetNametable2 => "cf.isset ".toList ++ (flagName .nametable2).toList
  | .cfIsSetVramAddIncrement => "cf.isset ".toList ++ (flagName .vramAddIncrement).toList
  | .cfIsSetSpritePatternAddr => "cf.isset ".toList ++ (flagName .spritePatternAddr).toList
  | .cfIsSetBackgroundPatternAddr => "cf.isset ".toList ++ (flagName .backgroundPatternAddr).toList
  | .cfIsSetSpriteSize => "cf.isset ".toList ++ (flagName .spriteSize).toList
  | .cfIsSetMasterSlaveSelect => "cf.isset ".toList ++ (flagName .masterSlaveSelect).toList
  | .cfIsSetGenerateNmi => "cf.isset ".toList ++ (flagName .generateNmi).toList

/-- The commands a line stands for when it is issued in the state `s` (30_encoding.md R43). The operand of `dp.advance`'s
`al.inc` is the response `cf.vraminc` gives there. -/
def expandLine (l : AsmLine) (s : State) : List Instr :=
  match l with
  | .command i => [i]
  | .alSetAddr a => [.alResetLatch, .alWrite (highByte a), .alWrite (lowByte a)]
  | .dpAdvance => [.cfVramInc, .alInc s.cf.vramAddrIncrement]

end Sys2Proof.Machine
end

