-- ==== Sys2Proof/Safety.lean ====
section
/-! DEFINITION. The terms the claims use: the invariant, the requests that are served, and what an execution leaves alone. -/

namespace Sys2Proof.Machine

/-- The invariant of 10_state.md R13: the 16-bit value `{AL.hi, AL.lo}` is at most 0x3FFF. -/
abbrev AddressLatch.Inv (l : AddressLatch) : Prop := l.address.toNat ≤ 0x3FFF

/-- R13, and the host's index lies within its list (10_state.md R18). -/
abbrev State.Inv (s : State) : Prop := s.al.Inv ∧ s.pc ≤ s.program.length

/-- A request that no clause of 60_exceptions.md R72 refuses. -/
def admitted (r : Request) : Prop :=
  r.wellFormed = true ∧
    ∀ a, r = .cpu (.read a) → portDecode a ≠ .addressLatch ∧ portDecode a ≠ .controlFlags

/-- The four registers of the two states are equal (10_state.md R17). -/
abbrev sameRegisters (s t : State) : Prop := t.al = s.al ∧ t.cf = s.cf

/-- What every completed request leaves alone on the host's side: the list, with the index moved on by exactly one
(10_state.md R18). -/
abbrev hostAdvanced (s t : State) : Prop := t.program = s.program ∧ t.pc = s.pc + 1

/-- The commands that can change the video address (40_address_latch.md R50, 70_reset_and_hazards.md R81). -/
def writesAddress : Instr → Bool
  | .alWrite _ => true
  | .alInc _ => true
  | .alResetLatch => false
  | .alGetAddr => false
  | .cfUpdate _ => false
  | .cfVramInc => false
  | .cfIsSetNametable1 => false
  | .cfIsSetNametable2 => false
  | .cfIsSetVramAddIncrement => false
  | .cfIsSetSpritePatternAddr => false
  | .cfIsSetBackgroundPatternAddr => false
  | .cfIsSetSpriteSize => false
  | .cfIsSetMasterSlaveSelect => false
  | .cfIsSetGenerateNmi => false

/-- The commands that only read (20_memory.md R30). -/
def isQuery : Instr → Bool
  | .alWrite _ => false
  | .alInc _ => false
  | .alResetLatch => false
  | .alGetAddr => true
  | .cfUpdate _ => false
  | .cfVramInc => true
  | .cfIsSetNametable1 => true
  | .cfIsSetNametable2 => true
  | .cfIsSetVramAddIncrement => true
  | .cfIsSetSpritePatternAddr => true
  | .cfIsSetBackgroundPatternAddr => true
  | .cfIsSetSpriteSize => true
  | .cfIsSetMasterSlaveSelect => true
  | .cfIsSetGenerateNmi => true

/-- The commands of ControlFlags; the others are AddressLatch's (00_scope.md R2, 30_encoding.md R37). -/
def isCfCommand : Instr → Bool
  | .alWrite _ => false
  | .alInc _ => false
  | .alResetLatch => false
  | .alGetAddr => false
  | .cfUpdate _ => true
  | .cfVramInc => true
  | .cfIsSetNametable1 => true
  | .cfIsSetNametable2 => true
  | .cfIsSetVramAddIncrement => true
  | .cfIsSetSpritePatternAddr => true
  | .cfIsSetBackgroundPatternAddr => true
  | .cfIsSetSpriteSize => true
  | .cfIsSetMasterSlaveSelect => true
  | .cfIsSetGenerateNmi => true

/-- What 41_control_flags.md R57 to R65 say of one flag query: its word, its flag's mask, and that it answers bit `bit` of
`CF.ctrl`, tested with the mask, and changes nothing but the response output and the host's index. -/
def AnswersBit (i : Instr) (f : Flag) (word : CommandWord) (mask : Byte) (bit : Nat) : Prop :=
  decode word = .ok i ∧ flagMask f = mask ∧
    ∀ s : State,
      exec i s = .next { s with responses := [.flag (s.cf.ctrl.getLsbD bit)], pc := s.pc + 1 } ∧
      s.cf.isSet f = s.cf.ctrl.getLsbD bit ∧
      (s.cf.ctrl &&& mask ≠ 0 ↔ s.cf.ctrl.getLsbD bit = true)

/-- A CPU read or write, one byte wide, that the dispatcher routes to the data port (20_memory.md R31). -/
def isDataPortAccess : Request → Prop
  | .cpu (.read a) => portDecode a = .dataPort
  | .cpu (.write a _) => portDecode a = .dataPort
  | _ => False

/-- The request `al.write d` in either of its two encodings: the command word, or a CPU write routed to AL
(30_encoding.md R35, R37). -/
def isAlWrite (d : Byte) (r : Request) : Prop :=
  r = .command (encode (.alWrite d)) ∨ ∃ a, r = .cpu (.write a d) ∧ portDecode a = .addressLatch

/-- The request `cf.update d` in either of its two encodings. -/
def isCfUpdate (d : Byte) (r : Request) : Prop :=
  r = .command (encode (.cfUpdate d)) ∨ ∃ a, r = .cpu (.write a d) ∧ portDecode a = .controlFlags

/-- A latch reset in each of its forms: the command word, a platform event of the trigger set, or a CPU access of the trigger
set that no port of the block takes (70_reset_and_hazards.md R82; log 10). -/
def isLatchReset (r : Request) : Prop :=
  r = .command (encode .alResetLatch) ∨
  (∃ e, r = .event e ∧ Config.latchResetTrigger (.other e) = true) ∨
  (∃ a, r = .cpu (.read a) ∧ portDecode a = .unselected ∧ Config.latchResetTrigger (.cpuAccess (.read a)) = true) ∨
  ∃ a d, r = .cpu (.write a d) ∧ portDecode a = .unselected ∧ Config.latchResetTrigger (.cpuAccess (.write a d)) = true

end Sys2Proof.Machine
end

