-- ==== Sys2Proof/Certificates/Slice0/Obligations.lean ====
section
/-! DEFINITION. The statements for the provers. Each docstring names the rule of spec/ it formalises. A completed request is
written as an equality with the whole next state, so that its frame is part of it: `{ s with … }` keeps every field that is
not named. -/

open Sys2Proof Sys2Proof.Machine

/-! ### Encoding -/

/-- 30_encoding.md R36, R37, R38: each command has exactly one word, and that word decodes to it with every operand bit. The
words are the spec's own notation (92_eei_decisions.md D1, log 12). -/
def Obligations.DecodeInvertsEncode : Prop :=
  ∀ (w : CommandWord) (i : Instr), decode w = .ok i ↔ encode i = w

/-- 30_encoding.md R37 (log 12): every word lies in at most one row of the map, and in one exactly if it decodes. -/
def Obligations.EveryDecodedWordLiesInOneRow : Prop :=
  ∀ w : CommandWord,
    (opcodeTable.filter fun r => r.matches w).length = if (decode w).toOption.isSome then 1 else 0

/-- 30_encoding.md R37, 95_test_vectors.md section 2 (log 12): words as the spec writes them. -/
def Obligations.WordsDecodeAsTheSpecWritesThem : Prop :=
  decode 0b000100100001 = .ok (.alWrite 0x21) ∧
  decode 0b000111000000 = .ok (.alWrite 0xC0) ∧
  decode 0b001011111111 = .ok (.alInc 0xFF) ∧
  decode 0b001000100000 = .ok (.alInc 0x20) ∧
  decode 0b001100000000 = .ok .alResetLatch ∧
  decode 0b010000000000 = .ok .alGetAddr ∧
  decode 0b100010100101 = .ok (.cfUpdate 0xA5) ∧
  decode 0b100100000000 = .ok .cfVramInc ∧
  decode 0b101000000010 = .ok .cfIsSetVramAddIncrement ∧
  decode 0b101000000111 = .ok .cfIsSetGenerateNmi

/-- 30_encoding.md R40 (the spec's decision D2, log 12): which command words are refused, each by its clause, with no next
state; every other word is a command's and is executed. -/
def Obligations.ReservedWordsAreRefusedAndNoOthers : Prop :=
  ∀ (w : CommandWord) (s : State), s.nextRequest = some (.command w) →
    let op := w.toNat / 256
    let operand := w.toNat % 256
    (op ∈ [0x0, 0x5, 0x6, 0x7, 0xB, 0xC, 0xD, 0xE, 0xF] → step s = .refused (.reservedCommand .reservedOp)) ∧
    (op ∈ [0x3, 0x4, 0x9] → operand ≠ 0 → step s = .refused (.reservedCommand .operandNotZero)) ∧
    (op = 0xA → operand / 8 ≠ 0 → step s = .refused (.reservedCommand .flagIndexTooLarge)) ∧
    (op ∈ [0x1, 0x2, 0x8] ∨ (op ∈ [0x3, 0x4, 0x9] ∧ operand = 0) ∨ (op = 0xA ∧ operand / 8 = 0) →
      ∃ i, encode i = w ∧ step s = exec i s)

/-- 30_encoding.md R41 (log 2, log 12): whether and why a command word is refused does not depend on the registers. -/
def Obligations.DecodingIgnoresTheRegisters : Prop :=
  ∀ (w : CommandWord) (s t : State) (why : Refusal),
    s.nextRequest = some (.command w) → t.nextRequest = some (.command w) →
      step s = .refused why → step t = .refused why

/-! ### The step -/

/-- 10_state.md R18, 30_encoding.md R41 (log 2, log 12): a step runs the command that the next word decodes to, and adds nothing around
it. -/
def Obligations.StepExecutesTheDecodedCommand : Prop :=
  ∀ (s : State) (w : CommandWord) (i : Instr),
    s.nextRequest = some (.command w) → decode w = .ok i → step s = exec i s

/-- 10_state.md R18 (log 2): a word placed from outside is the one the very next step runs, on the same registers, in every
state, wherever its index stands. -/
def Obligations.PlacedWordIsTheNextExecuted : Prop :=
  ∀ (s : State) (nbits w : Nat) (i : Instr), decodeTableWord nbits w = some i →
    step (s.withFetchWord nbits w) = exec i (s.withFetchWord nbits w) ∧
    sameRegisters s (s.withFetchWord nbits w) ∧
    (s.withFetchWord nbits w).responses = s.responses ∧ (s.withFetchWord nbits w).pc = s.pc

/-- 60_exceptions.md R70, R72 (the model's choices: log 2 for the list, its index and a run's steps, log 3 for the requests
that are no command, log 4 for the data-port access in one step, log 6 to log 10 for the accesses and events, log 12 for the
words, log 13 for the restores): every command, and every CPU write of any byte at any address, is admitted; and
from every state any list of admitted requests, of every kind and in any order, is served to its end, one step each, with no
step refused. -/
def Obligations.AdmittedRequestsRunToTheirEnd : Prop :=
  (∀ i : Instr, admitted (.command (encode i))) ∧
  (∀ (a : Address) (d : Byte), admitted (.cpu (.write a d))) ∧
  ∀ (rs rest : List Request) (s : State),
    s.program.drop s.pc = rs ++ rest → (∀ r ∈ rs, admitted r) →
      ∃ t : State, Host.Core.run Sys2Proof.core rs.length s = .next t ∧ t.pc = s.pc + rs.length ∧ t.program = s.program

/-- 10_state.md R18, 20_memory.md R33: every step that is taken moves the index on by exactly one and leaves the list of
requests as it was. R18 says it of a command; that a CPU access, an event, a snapshot or a restore counts as one entry of the
list is the model's (log 2, log 3), a data-port access of three commands too (log 4). -/
def Obligations.EveryStepAdvancesTheIndexByOne : Prop :=
  ∀ s t : State, step s = .next t → t.pc = s.pc + 1 ∧ t.program = s.program

/-- 60_exceptions.md R72 (the spec's decisions D2, D10, D11, D15): a step is taken exactly when a request is left that none of
R72's clauses refuses. The model's choices in it: the end of the run (log 2), the requests that are no command (log 3), the
data-port access in one step (log 4), the decode of addresses (log 6), reads and wide accesses (log 7, log 8), the step taken
on an access no port takes and on an event (log 9, log 10), the words (log 12) and the restores (log 13). -/
def Obligations.StepsAreTakenExactlyForAdmittedRequests : Prop :=
  ∀ s : State, (∃ t, step s = .next t) ↔ ∃ r, s.nextRequest = some r ∧ admitted r

/-! ### Power-on -/

/-- 70_reset_and_hazards.md R80: the registers after power-on, the address 0x0000 and the step 1. That nothing is placed and
nothing has been returned is the model's (log 1, log 2). -/
def Obligations.PowerOnRegisters : Prop :=
  State.reset.al.hi = 0x00 ∧ State.reset.al.lo = 0x00 ∧ State.reset.al.w = true ∧ State.reset.cf.ctrl = 0x00 ∧
  State.reset.al.address = 0x0000 ∧
  exec .cfVramInc State.reset = .next { State.reset with responses := [.step 1], pc := 1 } ∧
  State.reset.responses = [] ∧ State.reset.program = [] ∧ State.reset.pc = 0

/-- 10_state.md R13: the address is at most 0x3FFF after power-on. That the index also lies within its list (R18) rests on the
model's own reset values of the two (log 2). -/
def Obligations.PowerOnMeetsTheInvariant : Prop := State.reset.Inv

/-! ### The invariant -/

/-- 10_state.md R13: the address is at most 0x3FFF after power-on and after every step from a state where it is; that is the
same as bits 7:6 of the high byte being 0; and the fold changes the high byte alone. That the
index also stays within its list, in the premise and the conclusion, is R18 with the model's list (log 2, log 3). -/
def Obligations.EveryStepKeepsTheFourteenBitInvariant : Prop :=
  State.reset.al.address.toNat ≤ 0x3FFF ∧
  (∀ s t : State, s.Inv → step s = .next t → t.Inv) ∧
  (∀ (i : Instr) (s : State), s.Inv → ∃ t, exec i s = .next t ∧ t.al.address.toNat ≤ 0x3FFF) ∧
  ∀ l : AddressLatch,
    (l.address.toNat ≤ 0x3FFF ↔ l.hi.extractLsb' 6 2 = 0) ∧
    l.setAddress (l.address &&& 0x3FFF) = { l with hi := l.hi &&& 0x3F }

/-! ### AddressLatch -/

/-- 40_address_latch.md R45. The word is the spec's notation (D1, log 12). That a command without response leaves the response
output empty is the model's choice (log 1, beside 30_encoding.md R39, D18). -/
def Obligations.AlWriteStoresTheSelectedByteAndToggles : Prop :=
  (∀ (d : Byte) (s : State),
    decode (0b0001#4 ++ d) = .ok (.alWrite d) ∧
    (s.nextRequest = some (.cpu (.write 0x2006 d)) → step s = exec (.alWrite d) s) ∧
    exec (.alWrite d) s = .next { s with
      al := if s.al.w then { hi := d &&& 0x3F, lo := s.al.lo, w := false }
            else { hi := s.al.hi &&& 0x3F, lo := d, w := true }
      responses := []
      pc := s.pc + 1 } ∧
    (s.al.Inv → s.al.hi &&& 0x3F = s.al.hi) ∧
    (s.al.w = true → execAll [.alWrite d, .alGetAddr] s = .next { s with
      al := { hi := d &&& 0x3F, lo := s.al.lo, w := false }
      responses := [.address (joinBytes (d &&& 0x3F) s.al.lo)]
      pc := s.pc + 2 })) ∧
  execAll [.alWrite 0x21, .alWrite 0x08] State.reset =
    .next { State.reset with al := { hi := 0x21, lo := 0x08, w := true }, pc := 2 } ∧
  joinBytes 0x21 0x08 = 0x2108

/-- 40_address_latch.md R46. The word is the spec's notation (D1, log 12). That a command without response leaves the response
output empty is the model's choice (log 1, beside 30_encoding.md R39, D18). -/
def Obligations.AlIncAddsTheStepWithByteCarry : Prop :=
  (∀ (k : Byte) (s : State),
    decode (0b0010#4 ++ k) = .ok (.alInc k) ∧
    exec (.alInc k) s = .next { s with
      al := { hi := (if s.al.lo + k < s.al.lo then s.al.hi + 1 else s.al.hi) &&& 0x3F, lo := s.al.lo + k, w := s.al.w }
      responses := []
      pc := s.pc + 1 } ∧
    (s.al.lo + k < s.al.lo ↔ 256 ≤ s.al.lo.toNat + k.toNat) ∧
    (s.al.Inv → s.al.hi.toNat + 1 ≤ 0x40) ∧
    (s.al.Inv → exec (.alInc 0) s = .next { s with responses := [], pc := s.pc + 1 })) ∧
  (∀ w : Bool,
    AddressLatch.increment 1 { hi := 0x00, lo := 0xFF, w := w } = { hi := 0x01, lo := 0x00, w := w } ∧
    AddressLatch.increment 1 { hi := 0x3F, lo := 0xFF, w := w } = { hi := 0x00, lo := 0x00, w := w } ∧
    AddressLatch.increment 32 { hi := 0x3F, lo := 0xFF, w := w } = { hi := 0x00, lo := 0x1F, w := w } ∧
    AddressLatch.increment 1 { hi := 0x21, lo := 0x08, w := w } = { hi := 0x21, lo := 0x09, w := w })

/-- 40_address_latch.md R47: the bytewise increment is the 16-bit addition, masked, for every 16-bit value and every step;
on the states of R13 it is addition modulo 2^14. That the response output is left empty is the model's choice (log 1, beside
30_encoding.md R39, D18). -/
def Obligations.BytewiseIncrementIsSixteenBitAddition : Prop :=
  ∀ (k : Byte) (s : State),
    let a' : Address := (joinBytes s.al.hi s.al.lo + k.setWidth 16) &&& 0x3FFF
    exec (.alInc k) s = .next { s with
      al := { s.al with hi := a'.extractLsb' 8 8, lo := a'.extractLsb' 0 8 }
      responses := []
      pc := s.pc + 1 } ∧
    s.al.increment16 k = s.al.increment k ∧
    (s.al.Inv → a'.toNat = (s.al.address.toNat + k.toNat) % 2 ^ 14)

/-- 40_address_latch.md R48. The word and the refusal of an operand are the spec's notation (D1, D2, 30_encoding.md R40,
log 12). That a command without response leaves the response
output empty is the model's choice (log 1, beside 30_encoding.md R39, D18). -/
def Obligations.AlResetLatchMakesTheNextWriteHigh : Prop :=
  decode 0x300 = .ok .alResetLatch ∧
  (∀ x : Byte, x ≠ 0x00 → decode (0b0011#4 ++ x) = .error .operandNotZero) ∧
  (∀ s : State,
    exec .alResetLatch s = .next { s with al := { s.al with w := true }, responses := [], pc := s.pc + 1 } ∧
    (s.al.w = true → exec .alResetLatch s = .next { s with responses := [], pc := s.pc + 1 }) ∧
    (∀ d : Byte, execAll [.alResetLatch, .alResetLatch, .alWrite d] s = .next { s with
      al := { hi := d &&& 0x3F, lo := s.al.lo, w := false }
      responses := []
      pc := s.pc + 3 }) ∧
    (∀ d : Byte, s.al.w = true → execAll [.alWrite d, .alResetLatch] s = .next { s with
      al := { hi := d &&& 0x3F, lo := s.al.lo, w := true }
      responses := []
      pc := s.pc + 2 })) ∧
  AddressLatch.resetLatch { hi := 0x12, lo := 0x34, w := false } = { hi := 0x12, lo := 0x34, w := true } ∧
  AddressLatch.writeByte 0x3F { hi := 0x12, lo := 0x34, w := true } = { hi := 0x3F, lo := 0x34, w := false }

/-- 40_address_latch.md R49, 10_state.md R14. The word and the refusal of an operand are the spec's notation (D1, D2,
30_encoding.md R40, log 12). -/
def Obligations.AlGetAddrReturnsTheVideoAddress : Prop :=
  decode 0x400 = .ok .alGetAddr ∧
  (∀ x : Byte, x ≠ 0x00 → decode (0b0100#4 ++ x) = .error .operandNotZero) ∧
  (∀ s : State,
    let a : Address := (s.al.hi.setWidth 16 <<< 8) ||| s.al.lo.setWidth 16
    exec .alGetAddr s = .next { s with responses := [.address a], pc := s.pc + 1 } ∧
    execAll [.alGetAddr, .alGetAddr] s = .next { s with responses := [.address a], pc := s.pc + 2 } ∧
    a.extractLsb' 0 8 = s.al.lo ∧ a.extractLsb' 8 6 = s.al.hi.extractLsb' 0 6 ∧
    (s.al.Inv → a.toNat ≤ 0x3FFF ∧ a.extractLsb' 14 2 = 0) ∧
    (∀ d : Byte, s.al.w = true → execAll [.alWrite d, .alGetAddr] s = .next { s with
      al := { hi := d &&& 0x3F, lo := s.al.lo, w := false }
      responses := [.address (joinBytes (d &&& 0x3F) s.al.lo)]
      pc := s.pc + 2 })) ∧
  joinBytes 0x21 0x09 = 0x2109

/-- 40_address_latch.md R50: the initial state and the transition table of the latch, and the cycle of two writes. -/
def Obligations.LatchFollowsItsTransitionTable : Prop :=
  State.reset.al.w = true ∧
  ∀ s : State,
    (s.al.w = true → ∀ d, ∃ t, exec (.alWrite d) s = .next t ∧ t.al.hi = d &&& 0x3F ∧ t.al.w = false) ∧
    (s.al.w = false → ∀ d, ∃ t, exec (.alWrite d) s = .next t ∧ t.al.lo = d ∧ t.al.w = true) ∧
    (∃ t, exec .alResetLatch s = .next t ∧ t.al.w = true) ∧
    (∀ k, ∃ t, exec (.alInc k) s = .next t ∧ t.al.w = s.al.w) ∧
    (∃ t, exec .alGetAddr s = .next t ∧ t.al.w = s.al.w) ∧
    (∀ i, isCfCommand i = true → ∃ t, exec i s = .next t ∧ t.al.w = s.al.w) ∧
    (∀ a b, ∃ t u, execAll [.alWrite a] s = .next t ∧ t.al.w = !s.al.w ∧
      execAll [.alWrite a, .alWrite b] s = .next u ∧ u.al.w = s.al.w)

/-- 40_address_latch.md R52: after a high write, whatever commands that do not write the address come between, the address
read is the new high byte with the old low byte. -/
def Obligations.AddressIsMixedBetweenTheTwoWrites : Prop :=
  ∀ (d : Byte) (is : List Instr) (s : State),
    s.al.w = true → (∀ i ∈ is, writesAddress i = false) →
      ∃ t, execAll (.alWrite d :: is ++ [.alGetAddr]) s = .next t ∧
        t.responses = [.address (joinBytes (d &&& 0x3F) s.al.lo)]

/-- 40_address_latch.md R53: the fold clears bits 7:6 of the high byte and keeps the low byte; it leaves an address up to
0x3FFF alone; and from a state of R13 it changes something in a write or an increment exactly in the two events R53
names. -/
def Obligations.FoldChangesTheHighByteInTwoEventsOnly : Prop :=
  ∀ l : AddressLatch,
    l.setAddress (l.address &&& 0x3FFF) = { l with hi := l.hi &&& 0x3F } ∧
    (l.address.toNat ≤ 0x3FFF → l.setAddress (l.address &&& 0x3FFF) = l) ∧
    (l.Inv → ∀ d : Byte, (l.writeByte d ≠ (l.storeSelected d).toggle ↔ l.w = true ∧ d.extractLsb' 6 2 ≠ 0)) ∧
    (l.Inv → ∀ k : Byte, (l.increment k ≠ l.addStep k ↔ 256 ≤ l.lo.toNat + k.toNat ∧ l.hi = 0x3F))

/-- 40_address_latch.md R54: from a state of R13 the high byte never wraps at 8 bits, so an increment without the modulo
reaches the same high byte. -/
def Obligations.HighByteNeverWrapsAtEightBits : Prop :=
  ∀ (l : AddressLatch) (k : Byte), l.Inv →
    l.hi.toNat + 1 ≤ 0x40 ∧ (l.addStep k).hi.toNat = l.hi.toNat + (l.lo.toNat + k.toNat) / 256

/-- 40_address_latch.md R51: every operation of AddressLatch, with every operand and in every order of calls, completes from
every state. The lists may hold the commands of ControlFlags too (41_control_flags.md R67). That the index moves on by the
length and the list is kept is R18 (D5) with the model's list (log 2). -/
def Obligations.EveryOrderOfCommandsCompletes : Prop :=
  ∀ (is : List Instr) (s : State),
    ∃ t, execAll is s = .next t ∧ t.pc = s.pc + is.length ∧ t.program = s.program

/-! ### ControlFlags -/

/-- 41_control_flags.md R55. The word is the spec's notation (D1, log 12). That a command without response leaves the response
output empty is the model's choice (log 1, beside 30_encoding.md R39, D18). -/
def Obligations.CfUpdateReplacesTheWholeByte : Prop :=
  (∀ (d : Byte) (s : State),
    decode (0b1000#4 ++ d) = .ok (.cfUpdate d) ∧
    (s.nextRequest = some (.cpu (.write 0x2000 d)) → step s = exec (.cfUpdate d) s) ∧
    exec (.cfUpdate d) s = .next { s with cf := { ctrl := d }, responses := [], pc := s.pc + 1 } ∧
    (d = s.cf.ctrl → exec (.cfUpdate d) s = .next { s with responses := [], pc := s.pc + 1 }) ∧
    execAll [.cfUpdate d, .cfVramInc] s = .next { s with
      cf := { ctrl := d }
      responses := [.step (if d.getLsbD 2 then 32 else 1)]
      pc := s.pc + 2 }) ∧
  ControlFlags.vramAddrIncrement { ctrl := 0x04 } = 32

/-- 41_control_flags.md R56. The word and the refusal of an operand are the spec's notation (D1, D2, 30_encoding.md R40,
log 12). -/
def Obligations.CfVramIncReturnsOneOrThirtyTwoByBitTwo : Prop :=
  decode 0x900 = .ok .cfVramInc ∧
  (∀ x : Byte, x ≠ 0x00 → decode (0b1001#4 ++ x) = .error .operandNotZero) ∧
  (∀ s : State,
    exec .cfVramInc s = .next { s with
      responses := [.step (if s.cf.ctrl &&& 0x04 ≠ 0 then 32 else 1)]
      pc := s.pc + 1 }) ∧
  (∀ c c' : ControlFlags, c.ctrl.getLsbD 2 = c'.ctrl.getLsbD 2 → c.vramAddrIncrement = c'.vramAddrIncrement) ∧
  (∀ c : ControlFlags, c.vramAddrIncrement = 1 ∨ c.vramAddrIncrement = 32) ∧
  ControlFlags.vramAddrIncrement { ctrl := 0xFB } = 1 ∧ ControlFlags.vramAddrIncrement { ctrl := 0x04 } = 32

/-- 41_control_flags.md R57 to R65. That the flags other than VRAM_ADD_INCREMENT stand at these bits is the spec's reading of
the list's order (92_eei_decisions.md D3, log 11), and the words are its notation (D1, log 12). -/
def Obligations.FlagQueriesAnswerTheirBit : Prop :=
  AnswersBit .cfIsSetNametable1 .nametable1 0xA00 0x01 0 ∧
  AnswersBit .cfIsSetNametable2 .nametable2 0xA01 0x02 1 ∧
  AnswersBit .cfIsSetVramAddIncrement .vramAddIncrement 0xA02 0x04 2 ∧
  AnswersBit .cfIsSetSpritePatternAddr .spritePatternAddr 0xA03 0x08 3 ∧
  AnswersBit .cfIsSetBackgroundPatternAddr .backgroundPatternAddr 0xA04 0x10 4 ∧
  AnswersBit .cfIsSetSpriteSize .spriteSize 0xA05 0x20 5 ∧
  AnswersBit .cfIsSetMasterSlaveSelect .masterSlaveSelect 0xA06 0x40 6 ∧
  AnswersBit .cfIsSetGenerateNmi .generateNmi 0xA07 0x80 7 ∧
  ∀ c : ControlFlags, c.isSet .vramAddIncrement = true ↔ c.vramAddrIncrement = 32

/-- 41_control_flags.md R66 (log 11): after `update(b)` the byte put together from the eight predicates is `b`; every flag
query answers its bit of `b`. -/
def Obligations.FlagPredicatesReconstructTheByte : Prop :=
  ∀ (b : Byte) (s : State),
    ∃ t, exec (.cfUpdate b) s = .next t ∧ t.cf.reconstruct = b.toNat ∧
      ∀ f : Flag, ∃ u, exec (isSetCommand f) t = .next u ∧ u.responses = [.flag (b.getLsbD (flagBit f))]

/-- 41_control_flags.md R67, 20_memory.md R30: any number of queries, in any order, completes and changes no register, and
every query answers the same after them. That the index moves on by their number is R18 with the model's list (log 2). -/
def Obligations.QueriesChangeNothingAndAnswerAlike : Prop :=
  ∀ (qs : List Instr) (s : State), (∀ q ∈ qs, isQuery q = true) →
    ∃ t, execAll qs s = .next t ∧ sameRegisters s t ∧ t.program = s.program ∧ t.pc = s.pc + qs.length ∧
      ∀ q, isQuery q = true → ∃ u v, exec q s = .next u ∧ exec q t = .next v ∧ u.responses = v.responses

/-- 30_encoding.md R39 (the spec's decision D18; that the output is empty where nothing is returned is log 1): every command completes, with one response of its own kind, or none. -/
def Obligations.EachCommandReturnsItsOwnResponse : Prop :=
  ∀ s : State,
    (∃ t, exec .alGetAddr s = .next t ∧ ∃ a, t.responses = [.address a]) ∧
    (∃ t, exec .cfVramInc s = .next t ∧ (t.responses = [.step 1] ∨ t.responses = [.step 32])) ∧
    (∀ f, ∃ t, exec (isSetCommand f) s = .next t ∧ ∃ b, t.responses = [.flag b]) ∧
    (∀ i, isQuery i = false → ∃ t, exec i s = .next t ∧ t.responses = [])

/-! ### The two components -/

/-- 00_scope.md R2, 10_state.md R17: a list of commands leaves AL as the AddressLatch commands in it alone would, whatever CF
holds, and leaves CF as the ControlFlags commands in it alone would, whatever AL holds. -/
def Obligations.ComponentsDoNotInfluenceEachOther : Prop :=
  ∀ (is : List Instr) (s t : State),
    (s.al = t.al → ∃ s' t', execAll is s = .next s' ∧
      execAll (is.filter fun i => !isCfCommand i) t = .next t' ∧ s'.al = t'.al) ∧
    (s.cf = t.cf → ∃ s' t', execAll is s = .next s' ∧
      execAll (is.filter fun i => isCfCommand i) t = .next t' ∧ s'.cf = t'.cf)

/-- 10_state.md R15, 70_reset_and_hazards.md R81 (and the restore of R19, log 13; the requests are log 3, the decode log 6, the
words log 12): CF changes only by a `cf.update`, which writes its
data byte, or by a restore. -/
def Obligations.OnlyUpdatesAndRestoresChangeCtrl : Prop :=
  ∀ (s t : State) (r : Request), s.nextRequest = some r → step s = .next t → t.cf ≠ s.cf →
    (∃ d, isCfUpdate d r ∧ t.cf.ctrl = d) ∨ ∃ b, r = .restoreCf b ∧ t.cf.ctrl = b

/-- 10_state.md R10, R11, R12, 70_reset_and_hazards.md R81, 90_conflicts.md C4 (and the restore of R19, log 13; the
requests are log 3, the data-port access log 4, the decode log 6, the words log 12): the video address
changes only by a write, an increment, a data-port access or a restore; the latch flag changes only by a write, which
toggles it, a latch reset in any of its forms (R82, log 10), which sets it, or a restore. -/
def Obligations.AddressLatchChangesOnlyByItsWriters : Prop :=
  ∀ (s t : State) (r : Request), s.nextRequest = some r → step s = .next t →
    (t.al.address ≠ s.al.address →
      (∃ d, isAlWrite d r) ∨ (∃ k, r = .command (encode (.alInc k))) ∨ isDataPortAccess r ∨
        ∃ b0 b1 b2, r = .restoreAl b0 b1 b2) ∧
    (t.al.w ≠ s.al.w →
      (∃ d, isAlWrite d r) ∨
        (isLatchReset r ∧ t.al.w = true) ∨
        ∃ b0 b1 b2, r = .restoreAl b0 b1 b2)

/-! ### The dispatcher -/

/-- 30_encoding.md R35, 20_memory.md R21, R22, R23, R34 (the spec's decisions D10, D13, D15; log 1, log 5 to log 9), 70_reset_and_hazards.md R82
(D21, log 10): what each CPU transaction does. A byte access that no port of the block takes is a latch reset if it is in the
trigger set, and otherwise changes no register. -/
def Obligations.CpuTransactionsReachTheBlockByPort : Prop :=
  portDecode 0x2006 = .addressLatch ∧ portDecode 0x2000 = .controlFlags ∧ portDecode dataPort = .dataPort ∧
  ∀ (s : State) (a : Address) (d : Byte),
    (s.nextRequest = some (.cpu (.write a d)) →
      step s = match portDecode a with
        | .addressLatch => exec (.alWrite d) s
        | .controlFlags => exec (.cfUpdate d) s
        | .dataPort => dataPortAccess s
        | .unselected =>
          if Config.latchResetTrigger (.cpuAccess (.write a d)) then exec .alResetLatch s
          else .next { s with responses := [], pc := s.pc + 1 }) ∧
    (s.nextRequest = some (.cpu (.read a)) →
      step s = match portDecode a with
        | .addressLatch => .refused .cpuReadOfRegisterPort
        | .controlFlags => .refused .cpuReadOfRegisterPort
        | .dataPort => dataPortAccess s
        | .unselected =>
          if Config.latchResetTrigger (.cpuAccess (.read a)) then exec .alResetLatch s
          else .next { s with responses := [], pc := s.pc + 1 }) ∧
    (∀ rw, s.nextRequest = some (.cpu (.wide rw a)) → step s = .refused .accessWiderThanByte)

/-- 20_memory.md R31 (one step, log 4; its address and decode log 5, log 6; the response output log 1): a data-port access returns the address before the increment and the step in effect, then
increments; its registers are those its three commands leave. -/
def Obligations.DataPortAccessIncrementsAfterTheAccess : Prop :=
  ∀ (s : State) (r : Request), s.nextRequest = some r → isDataPortAccess r →
    let k : Byte := if s.cf.ctrl.getLsbD 2 then 32 else 1
    ∃ t, step s = .next t ∧ t.responses = [.address s.al.address, .step k] ∧
      t.al = s.al.increment k ∧ t.cf = s.cf ∧ hostAdvanced s t ∧
      ∃ u, execAll [.alGetAddr, .cfVramInc, .alInc k] s = .next u ∧ sameRegisters t u

/-- 20_memory.md R31, 40_address_latch.md R46, R47 (one step for each access, log 4; the list and its index log 2, log 3; the
decode log 6): a run of any number of data-port accesses from a state of R13
moves the address on by the step each time, modulo 2^14, and changes neither the latch flag nor CF. -/
def Obligations.DataPortStreamAdvancesTheAddress : Prop :=
  ∀ (rs rest : List Request) (s : State), s.al.Inv → (∀ r ∈ rs, isDataPortAccess r) →
    s.program.drop s.pc = rs ++ rest →
      ∃ t : State, Host.Core.run Sys2Proof.core rs.length s = .next t ∧
        t.al.address.toNat = (s.al.address.toNat + rs.length * (if s.cf.ctrl.getLsbD 2 then 32 else 1)) % 2 ^ 14 ∧
        t.al.w = s.al.w ∧ t.cf = s.cf ∧ t.pc = s.pc + rs.length

/-- 70_reset_and_hazards.md R82, 20_memory.md R32 (log 1, log 9, log 10): a platform event of the trigger set is a latch reset;
any other leaves the registers alone. (Of CPU accesses `CpuTransactionsReachTheBlockByPort` says the same.) -/
def Obligations.TriggerEventsResetTheLatch : Prop :=
  ∀ (s : State) (e : Nat), s.nextRequest = some (.event e) →
    step s = if Config.latchResetTrigger (.other e) then exec .alResetLatch s
      else .next { s with responses := [], pc := s.pc + 1 }

/-! ### Runs -/

/-- 10_state.md R18, 20_memory.md R27, 92_eei_decisions.md D19 (log 2; the words log 12): a finite list of command words runs from first to
last, one step each, every command on the state the one before it left; after the last request the run has ended. -/
def Obligations.CommandListsRunInOrderToTheirEnd : Prop :=
  ∀ (is : List Instr) (rest : List Request) (s : State),
    s.program.drop s.pc = (is.map fun i => Request.command (encode i)) ++ rest →
      ∃ t : State, Host.Core.run Sys2Proof.core is.length s = .next t ∧ execAll is s = .next t ∧
        t.pc = s.pc + is.length ∧ (rest = [] → step t = .refused .runEnded)

/-- 70_reset_and_hazards.md R80, 10_state.md R13: from power-on with any list of requests, every state a run reaches has an
address of 14 bits. That the list is placed from outside and that n steps leave the index n is R18 with the model's list
(log 2), for requests that are no command too (log 3), a data-port access among them (log 4). -/
def Obligations.EveryRunFromPowerOnStaysFourteenBit : Prop :=
  ∀ (rs : List Request) (n : Nat) (t : State),
    Host.Core.run Sys2Proof.core n { State.reset with program := rs } = .next t →
      t.al.address.toNat ≤ 0x3FFF ∧ t.pc = n

/-! ### Hazards -/

/-- 70_reset_and_hazards.md R85: the byte a write lands in follows the parity of the writes since the last latch reset; in
EXPECT_LOW two writes land as low then high; a latch reset recovers. (The empty response output is log 1.) -/
def Obligations.WritePairingFollowsParity : Prop :=
  (∀ (ds : List Byte) (s : State), ∃ t,
    execAll (.alResetLatch :: ds.map .alWrite) s = .next t ∧ t.al.w = decide (ds.length % 2 = 0)) ∧
  (∀ (a b : Byte) (s : State),
    (s.al.w = false → execAll [.alWrite a, .alWrite b] s = .next { s with
      al := { hi := b &&& 0x3F, lo := a, w := false }
      responses := []
      pc := s.pc + 2 }) ∧
    execAll [.alResetLatch, .alWrite a, .alWrite b] s = .next { s with
      al := { hi := a &&& 0x3F, lo := b, w := true }
      responses := []
      pc := s.pc + 3 })

/-- 70_reset_and_hazards.md R86: an increment between the two writes of a pair works on the new high and the old low byte,
and the low write does not undo its carry; a latch reset there keeps the new high byte. (The empty response output is log 1.) -/
def Obligations.IncrementBetweenWritesKeepsItsCarry : Prop :=
  ∀ (a b k : Byte) (s : State), s.al.w = true →
    execAll [.alWrite a, .alInc k, .alWrite b] s = .next { s with
      al := { hi := ((a &&& 0x3F) + (if 256 ≤ s.al.lo.toNat + k.toNat then 1 else 0)) &&& 0x3F, lo := b, w := true }
      responses := []
      pc := s.pc + 3 } ∧
    execAll [.alWrite a, .alResetLatch, .alWrite b] s = .next { s with
      al := { hi := b &&& 0x3F, lo := s.al.lo, w := false }
      responses := []
      pc := s.pc + 3 }

/-- 70_reset_and_hazards.md R87, 41_control_flags.md R69, 20_memory.md R31 (that one step serves the whole data-port access is
log 4, the list log 2, log 3, the decode log 6): a `cf.update` leaves the address already incremented alone and sets
the step of the next data-port access. -/
def Obligations.UpdateSetsTheStepOfTheNextAccess : Prop :=
  ∀ (d : Byte) (s : State) (r : Request), isDataPortAccess r → s.program[s.pc + 1]? = some r →
    ∃ t u, exec (.cfUpdate d) s = .next t ∧ t.al = s.al ∧ step t = .next u ∧
      u.al = s.al.increment (if d.getLsbD 2 then 32 else 1) ∧ u.cf.ctrl = d

/-! ### Snapshot -/

/-- 10_state.md R19, 70_reset_and_hazards.md R89 (the byte encoding and the refusal are the spec's decision D11, log 13; the
empty response output after a restore is log 1): a
snapshot changes no register; a restore writes its fields back exactly or is refused; a component restored from its snapshot,
into any state, is the component that was saved, the latch flag among it. -/
def Obligations.SnapshotsRestoreExactly : Prop :=
  (∀ s : State,
    (s.nextRequest = some .snapshotAl → step s = .next { s with
      responses := [.alSnapshot s.al.hi s.al.lo (if s.al.w then 0x01 else 0x00)], pc := s.pc + 1 }) ∧
    (s.nextRequest = some .snapshotCf → step s = .next { s with responses := [.cfSnapshot s.cf.ctrl], pc := s.pc + 1 }) ∧
    (∀ b0 b1 b2, s.nextRequest = some (.restoreAl b0 b1 b2) →
      (b0.extractLsb' 6 2 ≠ 0 ∨ (b2 ≠ 0x00 ∧ b2 ≠ 0x01) → step s = .refused .invalidSnapshot) ∧
      (b0.extractLsb' 6 2 = 0 → b2 = 0x00 ∨ b2 = 0x01 → step s = .next { s with
        al := { hi := b0, lo := b1, w := decide (b2 = 0x01) }, responses := [], pc := s.pc + 1 })) ∧
    (∀ b, s.nextRequest = some (.restoreCf b) →
      step s = .next { s with cf := { ctrl := b }, responses := [], pc := s.pc + 1 })) ∧
  (∀ s u v : State, s.al.Inv → step s = .next u → s.nextRequest = some .snapshotAl →
    ∀ b0 b1 b2, u.responses = [.alSnapshot b0 b1 b2] → v.nextRequest = some (.restoreAl b0 b1 b2) →
      ∃ t, step v = .next t ∧ t.al = s.al ∧ t.cf = v.cf) ∧
  (∀ s u v : State, step s = .next u → s.nextRequest = some .snapshotCf →
    ∀ b, u.responses = [.cfSnapshot b] → v.nextRequest = some (.restoreCf b) →
      ∃ t, step v = .next t ∧ t.cf = s.cf ∧ t.al = v.al)

/-! ### Assembler -/

/-- 30_encoding.md R43 (the spec's notation, D4): what the two pseudo-instructions expand to, and what the expansions do. -/
def Obligations.PseudoInstructionsExpandAsListed : Prop :=
  ∀ (a : Address) (s : State),
    expandLine (.alSetAddr a) s = [.alResetLatch, .alWrite (a.extractLsb' 8 8), .alWrite (a.extractLsb' 0 8)] ∧
    (∃ t, execAll (expandLine (.alSetAddr a) s) s = .next t ∧ t.al.address = a &&& 0x3FFF ∧ t.al.w = true ∧ t.cf = s.cf) ∧
    (∃ k u t, exec .cfVramInc s = .next u ∧ u.responses = [.step k] ∧ expandLine .dpAdvance s = [.cfVramInc, .alInc k] ∧
      execAll (expandLine .dpAdvance s) s = .next t ∧ t.al = s.al.increment k ∧ t.cf = s.cf)

/-- 30_encoding.md R42 (the spec's notation, D4; log 19): every command is read back from the line that spells it, and a
number above 255 spells no byte. -/
def Obligations.AssemblerReadsBackEveryCommand : Prop :=
  (∀ i : Instr, parseLine (renderCommand i) = some (some (.command i))) ∧
  (∀ (cs : List Char) (n : Nat), number cs = some n → (imm8 cs = none ↔ 255 < n))
end

