-- ==== Sys2Proof/Laws/State.lean ====
section
/-! SUPPORT. One lemma per field per update of State, so that no later proof unfolds a record update. -/

namespace Sys2Proof.Machine

@[simp] theorem State.finish_al (rs : List Response) (s : State) : (s.finish rs).al = s.al := rfl
@[simp] theorem State.finish_cf (rs : List Response) (s : State) : (s.finish rs).cf = s.cf := rfl
@[simp] theorem State.finish_responses (rs : List Response) (s : State) : (s.finish rs).responses = rs := rfl
@[simp] theorem State.finish_program (rs : List Response) (s : State) : (s.finish rs).program = s.program := rfl
@[simp] theorem State.finish_pc (rs : List Response) (s : State) : (s.finish rs).pc = s.pc + 1 := rfl

@[simp] theorem State.placeRequest_al (r : Request) (s : State) : (s.placeRequest r).al = s.al := rfl
@[simp] theorem State.placeRequest_cf (r : Request) (s : State) : (s.placeRequest r).cf = s.cf := rfl
@[simp] theorem State.placeRequest_responses (r : Request) (s : State) : (s.placeRequest r).responses = s.responses := rfl
@[simp] theorem State.placeRequest_pc (r : Request) (s : State) : (s.placeRequest r).pc = s.pc := rfl

/-- A placed request is the one issued next, whatever the list held and wherever the index stood. -/
theorem State.nextRequest_placeRequest (r : Request) (s : State) : (s.placeRequest r).nextRequest = some r := by
  unfold State.nextRequest State.placeRequest
  have hlen : (s.program.take s.pc ++ List.replicate (s.pc - s.program.length) (Request.command 0)).length = s.pc := by
    simp only [List.length_append, List.length_take, List.length_replicate]
    omega
  show ((s.program.take s.pc ++ _) ++ r :: s.program.drop (s.pc + 1))[s.pc]? = some r
  rw [List.getElem?_append_right hlen.le, hlen]
  simp

end Sys2Proof.Machine
end

