-- ==== Sys2Proof/Laws/Ops.lean ====
section
/-! SUPPORT. The spec lemma of each shared operation, which a proof cites instead of unfolding it. -/

namespace Sys2Proof.Machine

/-! ### The address as a pair of bytes -/

theorem highByte_joinBytes (hi lo : Byte) : highByte (joinBytes hi lo) = hi := by
  unfold highByte joinBytes
  ext i hi'
  simp only [BitVec.getElem_extractLsb', BitVec.getLsbD_or, BitVec.getLsbD_shiftLeft, BitVec.getLsbD_setWidth]
  have h' : 8 + i < 16 := by omega
  have h'' : i < 16 := by omega
  simp [h', h'', BitVec.getLsbD_eq_getElem hi']

theorem lowByte_joinBytes (hi lo : Byte) : lowByte (joinBytes hi lo) = lo := by
  unfold lowByte joinBytes
  ext i hi'
  simp only [BitVec.getElem_extractLsb', BitVec.getLsbD_or, BitVec.getLsbD_shiftLeft, BitVec.getLsbD_setWidth]
  have h : i < 16 := by omega
  simp [h, hi']

/-- The value of an address is 256 times its high byte plus its low byte. -/
theorem joinBytes_toNat (hi lo : Byte) : (joinBytes hi lo).toNat = hi.toNat * 256 + lo.toNat := by
  unfold joinBytes
  have hhi := hi.isLt
  have hlo := lo.isLt
  rw [BitVec.toNat_or, BitVec.toNat_shiftLeft, BitVec.toNat_setWidth, BitVec.toNat_setWidth,
    Nat.mod_eq_of_lt (show hi.toNat < 2 ^ 16 by omega), Nat.mod_eq_of_lt (show lo.toNat < 2 ^ 16 by omega),
    Nat.mod_eq_of_lt (by rw [Nat.shiftLeft_eq]; omega), ← Nat.shiftLeft_add_eq_or_of_lt hlo, Nat.shiftLeft_eq]

/-- Masking an address to 14 bits is the remainder by 2^14. -/
theorem and_addrMask_toNat (a : Address) : (a &&& addrMask).toNat = a.toNat % 16384 := by
  unfold addrMask
  rw [BitVec.toNat_and]
  exact Nat.and_two_pow_sub_one_eq_mod a.toNat 14

/-! ### AddressLatch -/

@[simp] theorem AddressLatch.setAddress_w (a : Address) (l : AddressLatch) : (l.setAddress a).w = l.w := rfl
@[simp] theorem AddressLatch.fold_w (l : AddressLatch) : l.fold.w = l.w := rfl
@[simp] theorem AddressLatch.addStep_w (s : Byte) (l : AddressLatch) : (l.addStep s).w = l.w := rfl
@[simp] theorem AddressLatch.increment_w (s : Byte) (l : AddressLatch) : (l.increment s).w = l.w := rfl
@[simp] theorem AddressLatch.toggle_w (l : AddressLatch) : l.toggle.w = !l.w := rfl
@[simp] theorem AddressLatch.toggle_hi (l : AddressLatch) : l.toggle.hi = l.hi := rfl
@[simp] theorem AddressLatch.toggle_lo (l : AddressLatch) : l.toggle.lo = l.lo := rfl
@[simp] theorem AddressLatch.resetLatch_w (l : AddressLatch) : l.resetLatch.w = true := rfl
@[simp] theorem AddressLatch.resetLatch_hi (l : AddressLatch) : l.resetLatch.hi = l.hi := rfl
@[simp] theorem AddressLatch.resetLatch_lo (l : AddressLatch) : l.resetLatch.lo = l.lo := rfl

/-- Setting an address and reading it back. -/
theorem AddressLatch.address_setAddress (a : Address) (l : AddressLatch) : (l.setAddress a).address = a := by
  apply BitVec.eq_of_toNat_eq
  show (joinBytes (highByte a) (lowByte a)).toNat = a.toNat
  rw [joinBytes_toNat]
  unfold highByte lowByte
  simp only [BitVec.extractLsb'_toNat, Nat.shiftRight_eq_div_pow]
  have := a.isLt
  omega

/-- After a fold the address is the old one, masked. -/
theorem AddressLatch.address_fold (l : AddressLatch) : l.fold.address = l.address &&& addrMask :=
  AddressLatch.address_setAddress _ _

/-- A write toggles the latch flag, whichever byte it stores. -/
@[simp] theorem AddressLatch.writeByte_w (d : Byte) (l : AddressLatch) : (l.writeByte d).w = !l.w := by
  unfold AddressLatch.writeByte AddressLatch.storeSelected
  cases l.w <;> simp

end Sys2Proof.Machine
end

