-- ==== Sys2Proof/Laws/PerInstr.lean ====
section
/-! SUPPORT. The family `RowMatch`: the word of a command lies in its row of the operation map (30_encoding.md R37). -/

namespace Sys2Proof.Laws.RowMatch

/-- The encoder against the `match` and `mask` columns of 30_encoding.md R37. -/
def Statement (i : Instr) : Prop := i.row.matches (encode i) = true

theorem alWrite (d : Byte) : Statement (.alWrite d) := by
  unfold Statement; revert d; decide
theorem alInc (s : Byte) : Statement (.alInc s) := by
  unfold Statement; revert s; decide
theorem alResetLatch : Statement .alResetLatch := by unfold Statement; decide
theorem alGetAddr : Statement .alGetAddr := by unfold Statement; decide
theorem cfUpdate (d : Byte) : Statement (.cfUpdate d) := by
  unfold Statement; revert d; decide
theorem cfVramInc : Statement .cfVramInc := by unfold Statement; decide
theorem cfIsSetNametable1 : Statement .cfIsSetNametable1 := by unfold Statement; decide
theorem cfIsSetNametable2 : Statement .cfIsSetNametable2 := by unfold Statement; decide
theorem cfIsSetVramAddIncrement : Statement .cfIsSetVramAddIncrement := by unfold Statement; decide
theorem cfIsSetSpritePatternAddr : Statement .cfIsSetSpritePatternAddr := by unfold Statement; decide
theorem cfIsSetBackgroundPatternAddr : Statement .cfIsSetBackgroundPatternAddr := by unfold Statement; decide
theorem cfIsSetSpriteSize : Statement .cfIsSetSpriteSize := by unfold Statement; decide
theorem cfIsSetMasterSlaveSelect : Statement .cfIsSetMasterSlaveSelect := by unfold Statement; decide
theorem cfIsSetGenerateNmi : Statement .cfIsSetGenerateNmi := by unfold Statement; decide

end Sys2Proof.Laws.RowMatch
end

