-- ==== Sys2Proof/Laws/Step.lean ====
section
/-! SUPPORT. What one request can do, said once: the inversion lemmas of `step`, `serve` and `exec`. -/

namespace Sys2Proof.Machine

/-- A step that answers a next state served a request. -/
theorem step_next {s t : State} (h : step s = .next t) : ∃ r, s.nextRequest = some r ∧ serve r s = .next t := by
  unfold step at h
  split at h
  · exact ⟨_, ‹_›, h⟩
  · cases h

/-- A step serves the request that stands next. -/
theorem step_of_nextRequest {s : State} {r : Request} (h : s.nextRequest = some r) : step s = serve r s := by
  unfold step
  rw [h]

/-- A command word that decodes is executed. -/
theorem serveCommand_of_decode {w : CommandWord} {i : Instr} (h : decode w = .ok i) (s : State) :
    serveCommand w s = exec i s := by
  unfold serveCommand
  rw [h]

/-- Every command's state after it: new registers and a response, the host's list kept, the index moved on by one. -/
theorem exec_next_form (i : Instr) (s : State) :
    ∃ al cf rs, exec i s = .next (State.finish rs { s with al := al, cf := cf }) := by
  cases i <;> exact ⟨_, _, _, rfl⟩

/-- What AL can be after a request that is served. -/
inductive AlChange (l : AddressLatch) : AddressLatch → Prop where
  | kept : AlChange l l
  | written (d : Byte) : AlChange l (l.writeByte d)
  | incremented (step : Byte) : AlChange l (l.increment step)
  | latchReset : AlChange l l.resetLatch
  | restored (b0 b1 : Byte) (w : Bool) (h : b0 &&& 0xC0 = 0) : AlChange l { hi := b0, lo := b1, w := w }

theorem exec_alChange {i : Instr} {s t : State} (h : exec i s = .next t) : AlChange s.al t.al := by
  cases i with
  | alWrite d => cases h; exact .written d
  | alInc step => cases h; exact .incremented step
  | alResetLatch => cases h; exact .latchReset
  | _ => cases h; exact .kept

/-- The host's side after a command. -/
theorem exec_hostAdvanced {i : Instr} {s t : State} (h : exec i s = .next t) : hostAdvanced s t := by
  obtain ⟨al, cf, rs, h'⟩ := exec_next_form i s
  cases h.symm.trans h'
  exact ⟨rfl, rfl⟩

theorem notSelected_next {s t : State} (h : notSelected s = .next t) :
    t.al = s.al ∧ t.cf = s.cf ∧ t.responses = [] ∧ hostAdvanced s t := by
  cases h
  exact ⟨rfl, rfl, rfl, rfl, rfl⟩

/-- A platform event is a latch reset, or leaves the registers alone. -/
theorem platformEvent_next {e : PlatformEvent} {s t : State} (h : platformEvent e s = .next t) :
    t.al = (if Config.latchResetTrigger e then s.al.resetLatch else s.al) ∧ t.cf = s.cf ∧ t.responses = [] ∧
      hostAdvanced s t := by
  unfold platformEvent at h
  split at h
  · cases h
    exact ⟨(if_pos ‹_›).symm, rfl, rfl, rfl, rfl⟩
  · obtain ⟨ha, hrest⟩ := notSelected_next h
    exact ⟨ha.trans (if_neg ‹_›).symm, hrest⟩

theorem dataPortAccess_next {s t : State} (h : dataPortAccess s = .next t) :
    t.al = s.al.increment s.cf.vramAddrIncrement ∧ t.cf = s.cf ∧
      t.responses = [.address s.al.address, .step s.cf.vramAddrIncrement] ∧ hostAdvanced s t := by
  cases h
  exact ⟨rfl, rfl, rfl, rfl, rfl⟩

theorem restoreAl_next {b0 b1 b2 : Byte} {s t : State} (h : restoreAl b0 b1 b2 s = .next t) :
    b0 &&& 0xC0 = 0 ∧ ∃ w, latchOfByte b2 = some w ∧ t.al = { hi := b0, lo := b1, w := w } ∧ t.cf = s.cf ∧
      t.responses = [] ∧ hostAdvanced s t := by
  unfold restoreAl at h
  split at h
  · cases h
  · rename_i hb
    split at h
    · rename_i w hw
      cases h
      exact ⟨by simpa using hb, w, hw, rfl, rfl, rfl, rfl, rfl⟩
    · cases h

/-- A request that is served changes AL in one of five ways and leaves the host's list alone. -/
theorem serve_next {r : Request} {s t : State} (h : serve r s = .next t) :
    AlChange s.al t.al ∧ hostAdvanced s t := by
  have exec' : ∀ {i : Instr}, exec i s = .next t → AlChange s.al t.al ∧ hostAdvanced s t := fun he =>
    ⟨exec_alChange he, exec_hostAdvanced he⟩
  have event : ∀ {e : PlatformEvent}, platformEvent e s = .next t → AlChange s.al t.al ∧ hostAdvanced s t := fun he => by
    obtain ⟨ha, -, -, hh⟩ := platformEvent_next he
    refine ⟨?_, hh⟩
    rw [ha]
    split
    · exact .latchReset
    · exact .kept
  have data : dataPortAccess s = .next t → AlChange s.al t.al ∧ hostAdvanced s t := fun hd => by
    obtain ⟨ha, -, -, hh⟩ := dataPortAccess_next hd
    exact ⟨ha ▸ .incremented _, hh⟩
  cases r with
  | command w =>
    simp only [serve, serveCommand] at h
    split at h
    · exact exec' h
    · cases h
  | cpu c =>
    cases c with
    | read a =>
      simp only [serve, busAccess, busRead] at h
      split at h
      · cases h
      · cases h
      · exact data h
      · exact event h
    | write a d =>
      simp only [serve, busAccess, busWrite] at h
      split at h
      · exact exec' (i := .alWrite d) h
      · exact exec' (i := .cfUpdate d) h
      · exact data h
      · exact event h
    | wide rw a => cases h
  | event e => exact event h
  | snapshotAl => cases h; exact ⟨.kept, rfl, rfl⟩
  | snapshotCf => cases h; exact ⟨.kept, rfl, rfl⟩
  | restoreAl b0 b1 b2 =>
    obtain ⟨hb, w, -, ha, -, -, hh⟩ := restoreAl_next h
    exact ⟨ha ▸ .restored b0 b1 w hb, hh⟩
  | restoreCf b0 => cases h; exact ⟨.kept, rfl, rfl⟩

/-- The data port is neither of the two fixed ports. -/
theorem dataPort_ne : dataPort ≠ portAddr ∧ dataPort ≠ portCtrl := by
  have h := Config.dataPortIndex.isLt
  constructor <;>
  · intro he
    have := congrArg BitVec.toNat he
    unfold dataPort at this
    rw [BitVec.toNat_ofNat] at this
    first
    | change _ = 0x2006 at this
    | change _ = 0x2000 at this
    split at this
    · omega
    · split at this <;> omega

/-- The data port decodes to the data port. -/
theorem portDecode_dataPort : portDecode dataPort = .dataPort := by
  simp [portDecode, dataPort_ne.1, dataPort_ne.2]

/-- Every request routed to the data port is served as the one sequence. -/
theorem serve_of_isDataPortAccess {r : Request} (h : isDataPortAccess r) (s : State) : serve r s = dataPortAccess s := by
  cases r with
  | cpu c =>
    cases c with
    | read a =>
      have h : portDecode a = .dataPort := h
      simp only [serve, busAccess, busRead, h]
    | write a d =>
      have h : portDecode a = .dataPort := h
      simp only [serve, busAccess, busWrite, h]
    | wide _ _ => cases h
  | _ => cases h

/-! ### Runs -/

/-- The request at the head of what is left of the list is the next one, and the rest follows it. -/
theorem nextRequest_of_drop {s : State} {r : Request} {rs : List Request} (h : s.program.drop s.pc = r :: rs) :
    s.nextRequest = some r ∧ s.program.drop (s.pc + 1) = rs := by
  constructor
  · exact List.head?_drop.symm.trans (congrArg List.head? h)
  · exact List.tail_drop.symm.trans (congrArg List.tail h)

/-- A run whose first step is taken goes on from there. -/
theorem run_succ_of_step {n : Nat} {s t : State} (h : step s = .next t) :
    Host.Core.run Sys2Proof.core (n + 1) s = Host.Core.run Sys2Proof.core n t := by
  have h : Sys2Proof.core.step s = .next t := h
  simp only [Host.Core.run]
  rw [h]

end Sys2Proof.Machine
end

