-- ==== Sys2Proof/Tests/Slice0.lean ====
section
/-! SUPPORT. Tests. Expected results are the vectors and worked examples of spec/ (the file named at each test), never the
model's own answers. The last section shows, for each statement with hypotheses, a state and operands that meet them. -/

namespace Sys2Proof.Tests

open Sys2Proof.Machine

/-- A state written as 95_test_vectors.md writes one: hi/lo/w/ctrl. -/
def block (hi lo : Byte) (w : Bool) (ctrl : Byte) : State :=
  { State.reset with al := { hi := hi, lo := lo, w := w }, cf := { ctrl := ctrl } }

/-- The power-on state with a list of requests placed. -/
def withRequests (rs : List Request) : State := { State.reset with program := rs }

/-- The registers after one step that serves `r`, none where it is not taken. -/
def registersAfter (r : Request) (s : State) : Option (Byte × Byte × Bool × Byte) :=
  match step { s with program := [r], pc := 0 } with
  | .next t => some (t.al.hi, t.al.lo, t.al.w, t.cf.ctrl)
  | .fault _ => none
  | .refused _ => none

/-- The responses of one step that serves `r`, none where it is not taken. -/
def responsesAfter (r : Request) (s : State) : Option (List Response) :=
  match step { s with program := [r], pc := 0 } with
  | .next t => some t.responses
  | .fault _ => none
  | .refused _ => none

/-- Why one step that serves `r` is refused. -/
def refusalOf (r : Request) (s : State) : Option Refusal :=
  match step { s with program := [r], pc := 0 } with
  | .next _ => none
  | .fault _ => none
  | .refused why => some why

/-! ### WellFormed: an ill-formed term for each check -/

theorem test_wf_reserved_op_refused : CommandWord.wellFormed 0x7AB = false := by decide
theorem test_wf_operand_not_zero_refused : CommandWord.wellFormed 0x901 = false := by decide
theorem test_wf_flag_index_refused : CommandWord.wellFormed 0xA08 = false := by decide
theorem test_wf_wide_access_refused : CpuAccess.wellFormed (.wide .write 0x2006) = false := by decide
theorem test_wf_snapshot_high_byte_refused : alSnapshotWellFormed 0x40 0x01 = false := by decide
theorem test_wf_snapshot_latch_byte_refused : alSnapshotWellFormed 0x3F 0x02 = false := by decide
theorem test_wf_neighbours_accepted :
    CommandWord.wellFormed 0x1FF = true ∧ CommandWord.wellFormed 0x900 = true ∧ CommandWord.wellFormed 0xA07 = true ∧
      alSnapshotWellFormed 0x3F 0x01 = true := by decide
theorem test_wf_every_command_accepted (i : Instr) : i.wellFormed = true := by cases i <;> rfl

/-! ### Decoding: words bit by bit from the encoding column of 30_encoding.md R37 -/

theorem test_decode_al_write : decode 0b000101111110 = .ok (.alWrite 0x7E) := by decide
theorem test_decode_al_inc : decode 0b001010000001 = .ok (.alInc 0x81) := by decide
theorem test_decode_al_resetlatch : decode 0b001100000000 = .ok .alResetLatch := by decide
theorem test_decode_al_getaddr : decode 0b010000000000 = .ok .alGetAddr := by decide
theorem test_decode_cf_update : decode 0b100011110000 = .ok (.cfUpdate 0xF0) := by decide
theorem test_decode_cf_vraminc : decode 0b100100000000 = .ok .cfVramInc := by decide
theorem test_decode_isset_nametable1 : decode 0b101000000000 = .ok .cfIsSetNametable1 := by decide
theorem test_decode_isset_nametable2 : decode 0b101000000001 = .ok .cfIsSetNametable2 := by decide
theorem test_decode_isset_vram_add_increment : decode 0b101000000010 = .ok .cfIsSetVramAddIncrement := by decide
theorem test_decode_isset_sprite_pattern_addr : decode 0b101000000011 = .ok .cfIsSetSpritePatternAddr := by decide
theorem test_decode_isset_background_pattern_addr : decode 0b101000000100 = .ok .cfIsSetBackgroundPatternAddr := by decide
theorem test_decode_isset_sprite_size : decode 0b101000000101 = .ok .cfIsSetSpriteSize := by decide
theorem test_decode_isset_master_slave_select : decode 0b101000000110 = .ok .cfIsSetMasterSlaveSelect := by decide
theorem test_decode_isset_generate_nmi : decode 0b101000000111 = .ok .cfIsSetGenerateNmi := by decide

/-- 95_test_vectors.md section 2.8: the refused words. -/
theorem test_refused_words :
    ([0x000, 0x0FF, 0x500, 0x7AB, 0xB00, 0xFFF, 0x301, 0x480, 0x901, 0xA08, 0xAF0] : List CommandWord).all
      (fun w => (decode w).toOption.isNone) = true := by decide

/-- 30_encoding.md R36: a number with a bit above bit 11 is no command word. -/
theorem test_table_word_bound : decodeTableWord 16 0x1300 = none ∧ decodeTableWord 16 0x0300 = some .alResetLatch := by decide

/-! ### Single steps: rows of 95_test_vectors.md section 2 -/

theorem test_al_write_high_folds : registersAfter (.command 0x1FF) (block 0x00 0x00 true 0x00) = some (0x3F, 0x00, false, 0x00) := by decide
theorem test_al_write_low_unmasked : registersAfter (.command 0x1FF) (block 0x12 0x34 false 0x00) = some (0x12, 0xFF, true, 0x00) := by decide
theorem test_al_inc_carry_and_fold : registersAfter (.command 0x2FF) (block 0x3F 0x01 true 0x00) = some (0x00, 0x00, true, 0x00) := by decide
theorem test_al_inc_exact_carry : registersAfter (.command 0x280) (block 0x00 0x80 true 0x00) = some (0x01, 0x00, true, 0x00) := by decide
theorem test_al_resetlatch_keeps_address : registersAfter (.command 0x300) (block 0x12 0x34 false 0x00) = some (0x12, 0x34, true, 0x00) := by decide
theorem test_al_getaddr : responsesAfter (.command 0x400) (block 0x21 0x09 true 0x00) = some [.address 0x2109] := by decide
theorem test_al_getaddr_keeps_latch : registersAfter (.command 0x400) (block 0x3F 0xFF false 0x00) = some (0x3F, 0xFF, false, 0x00) := by decide
theorem test_cf_update_keeps_al : registersAfter (.command 0x804) (block 0x21 0x08 false 0x00) = some (0x21, 0x08, false, 0x04) := by decide
theorem test_cf_vraminc_other_bits : responsesAfter (.command 0x900) (block 0x00 0x00 true 0xFB) = some [.step 1] := by decide
theorem test_cf_vraminc_set : responsesAfter (.command 0x900) (block 0x00 0x00 true 0x04) = some [.step 32] := by decide

/-- The examples of 41_control_flags.md R58 to R65: one flag set alone, and all others set. -/
theorem test_isset_examples :
    responsesAfter (.command 0xA00) (block 0 0 true 0x01) = some [.flag true] ∧
    responsesAfter (.command 0xA00) (block 0 0 true 0xFE) = some [.flag false] ∧
    responsesAfter (.command 0xA01) (block 0 0 true 0x02) = some [.flag true] ∧
    responsesAfter (.command 0xA01) (block 0 0 true 0xFD) = some [.flag false] ∧
    responsesAfter (.command 0xA02) (block 0 0 true 0x04) = some [.flag true] ∧
    responsesAfter (.command 0xA02) (block 0 0 true 0xFB) = some [.flag false] ∧
    responsesAfter (.command 0xA03) (block 0 0 true 0x08) = some [.flag true] ∧
    responsesAfter (.command 0xA03) (block 0 0 true 0xF7) = some [.flag false] ∧
    responsesAfter (.command 0xA04) (block 0 0 true 0x10) = some [.flag true] ∧
    responsesAfter (.command 0xA04) (block 0 0 true 0xEF) = some [.flag false] ∧
    responsesAfter (.command 0xA05) (block 0 0 true 0x20) = some [.flag true] ∧
    responsesAfter (.command 0xA05) (block 0 0 true 0xDF) = some [.flag false] ∧
    responsesAfter (.command 0xA06) (block 0 0 true 0x40) = some [.flag true] ∧
    responsesAfter (.command 0xA06) (block 0 0 true 0xBF) = some [.flag false] ∧
    responsesAfter (.command 0xA07) (block 0 0 true 0x80) = some [.flag true] ∧
    responsesAfter (.command 0xA07) (block 0 0 true 0x7F) = some [.flag false] := by decide

/-- 20_memory.md R22. -/
theorem test_cpu_read_refused : refusalOf (.cpu (.read 0x2006)) State.reset = some .cpuReadOfRegisterPort := by decide
/-- 20_memory.md R21. -/
theorem test_cpu_write_ctrl : registersAfter (.cpu (.write 0x2000 0xA5)) State.reset = some (0x00, 0x00, true, 0xA5) := by decide
/-- 10_state.md R19. -/
theorem test_snapshot_bytes : responsesAfter .snapshotAl (block 0x20 0x00 false 0x00) = some [.alSnapshot 0x20 0x00 0x00] := by decide
/-- 10_state.md R19. -/
theorem test_restore_refused : refusalOf (.restoreAl 0x80 0x00 0x01) State.reset = some .invalidSnapshot := by decide
/-- 70_reset_and_hazards.md R89. -/
theorem test_restore_expect_low : registersAfter (.restoreAl 0x20 0x34 0x00) State.reset = some (0x20, 0x34, false, 0x00) := by decide
/-- 10_state.md R18. -/
theorem test_run_ends : step State.reset = .refused .runEnded := rfl
/-- 20_memory.md R31, with the vector 3F/E0/1/04 of 95_test_vectors.md P2: address 0x3FE0, step 32. -/
theorem test_data_port : responsesAfter (.cpu (.read dataPort)) (block 0x3F 0xE0 true 0x04) = some [.address 0x3FE0, .step 32] := by
  simp only [responsesAfter, step, State.nextRequest, List.getElem?_cons_zero, serve, busAccess, busRead, portDecode_dataPort]
  decide

/-- 30_encoding.md R42, lines with a comment, decimal and hexadecimal operands. -/
theorem test_assembler_lines :
    parseLine "  al.write   0x21 ; high".toList = some (some (.command (.alWrite 0x21))) ∧
    parseLine "al.inc 32".toList = some (some (.command (.alInc 0x20))) ∧
    parseLine "cf.update 0xa5".toList = some (some (.command (.cfUpdate 0xA5))) ∧
    parseLine "cf.isset GENERATE_NMI".toList = some (some (.command .cfIsSetGenerateNmi)) ∧
    parseLine "al.setaddr 0x2108".toList = some (some (.alSetAddr 0x2108)) ∧
    parseLine "; comment".toList = some none := by decide
theorem test_assembler_refuses :
    parseLine "al.write 256".toList = none ∧ parseLine "cf.isset generate_nmi".toList = none ∧
    parseLine "al.getaddr 0".toList = none ∧ parseLine "al.inc 0x".toList = none := by decide

/-! ### Power-on -/

/-- 70_reset_and_hazards.md R80. -/
theorem test_reset : State.reset = block 0x00 0x00 true 0x00 := by decide

/-! ### Witnesses: the hypotheses of each statement met together -/

/-- One request of every kind, each admitted. -/
theorem witness_AdmittedRequestsRunToTheirEnd :
    let rs : List Request :=
      [.command 0x1FF, .cpu (.write 0x2006 0xFF), .cpu (.read dataPort), .event 0, .snapshotAl, .snapshotCf,
        .restoreAl 0x3F 0xFF 0x01, .restoreCf 0xFF]
    (withRequests rs).program.drop 0 = rs ++ [] ∧ ∀ r ∈ rs, admitted r := by
  refine ⟨rfl, ?_⟩
  simp only [List.forall_mem_cons, List.not_mem_nil, false_implies, implies_true, and_true]
  refine ⟨⟨by decide, nofun⟩, ⟨rfl, nofun⟩, ⟨rfl, ?_⟩, ⟨rfl, nofun⟩, ⟨rfl, nofun⟩, ⟨rfl, nofun⟩, ⟨by decide, nofun⟩, ⟨rfl, nofun⟩⟩
  rintro a ⟨⟩
  rw [portDecode_dataPort]
  decide

theorem witness_ReservedWordsAreRefusedAndNoOthers :
    (withRequests [.command 0x0FF]).nextRequest = some (.command 0x0FF) ∧
    (0x0FF#12).toNat / 256 = 0x0 ∧ (0xFFF#12).toNat / 256 = 0xF ∧
    ((0x301#12).toNat / 256 = 0x3 ∧ (0x301#12).toNat % 256 ≠ 0) ∧ ((0x9FF#12).toNat / 256 = 0x9 ∧ (0x9FF#12).toNat % 256 ≠ 0) ∧
    ((0xA08#12).toNat / 256 = 0xA ∧ (0xA08#12).toNat % 256 / 8 ≠ 0) ∧
    (0x1FF#12).toNat / 256 = 0x1 ∧ ((0x300#12).toNat / 256 = 0x3 ∧ (0x300#12).toNat % 256 = 0) ∧
    ((0xA07#12).toNat / 256 = 0xA ∧ (0xA07#12).toNat % 256 / 8 = 0) := by decide

theorem witness_DecodingIgnoresTheRegisters :
    (withRequests [.command 0x301]).nextRequest = some (.command 0x301) ∧
    ({ block 0x12 0x34 false 0xFF with program := [.command 0x301] } : State).nextRequest = some (.command 0x301) ∧
    step (withRequests [.command 0x301]) = .refused (.reservedCommand .operandNotZero) := ⟨by decide, by decide, rfl⟩

theorem witness_StepExecutesTheDecodedCommand :
    (withRequests [.command 0x121]).nextRequest = some (.command 0x121) ∧ decode 0x121 = .ok (.alWrite 0x21) := by decide

theorem witness_PlacedWordIsTheNextExecuted : decodeTableWord 16 0x220 = some (.alInc 0x20) := by decide

/-- A step that is taken, from a state of the invariant, with its next state. -/
theorem witness_EveryStepAdvancesTheIndexByOne :
    step (withRequests [.command 0x140]) =
      .next { withRequests [.command 0x140] with al := { hi := 0x00, lo := 0x00, w := false }, pc := 1 } := rfl

theorem witness_EveryStepKeepsTheFourteenBitInvariant : (withRequests [.command 0x140]).Inv := by decide

theorem witness_AlWriteStoresTheSelectedByteAndToggles :
    (withRequests [.cpu (.write 0x2006 0xFF)]).nextRequest = some (.cpu (.write 0x2006 0xFF)) ∧
    (block 0x3F 0xFF true 0x00).al.Inv ∧ (block 0x3F 0xFF true 0x00).al.w = true := by decide

theorem witness_AlIncAddsTheStepWithByteCarry : (block 0x3F 0xFF false 0x00).al.Inv := by decide

theorem witness_BytewiseIncrementIsSixteenBitAddition : (block 0x3F 0xFF true 0x04).al.Inv := by decide

theorem witness_AlResetLatchMakesTheNextWriteHigh :
    (0xFF : Byte) ≠ 0x00 ∧ (block 0x12 0x34 true 0x00).al.w = true := by decide

theorem witness_AlGetAddrReturnsTheVideoAddress :
    (0x80 : Byte) ≠ 0x00 ∧ (block 0x3F 0xFF true 0x00).al.Inv ∧ (block 0x3F 0xFF true 0x00).al.w = true := by decide

theorem witness_LatchFollowsItsTransitionTable :
    (block 0x12 0x34 true 0x00).al.w = true ∧ (block 0x12 0x34 false 0x00).al.w = false ∧ isCfCommand (.cfUpdate 0xFF) = true := by
  decide

theorem witness_AddressIsMixedBetweenTheTwoWrites :
    (block 0x12 0x34 true 0x00).al.w = true ∧
    ∀ i ∈ [Instr.alResetLatch, .cfUpdate 0xFF, .alGetAddr], writesAddress i = false := by decide

theorem witness_FoldChangesTheHighByteInTwoEventsOnly :
    (block 0x3F 0xFF true 0x00).al.Inv ∧ (block 0x3F 0xFF true 0x00).al.address.toNat ≤ 0x3FFF := by decide

theorem witness_HighByteNeverWrapsAtEightBits : (block 0x3F 0xFF false 0x00).al.Inv := by decide

theorem witness_CfUpdateReplacesTheWholeByte :
    (withRequests [.cpu (.write 0x2000 0xFF)]).nextRequest = some (.cpu (.write 0x2000 0xFF)) ∧
    (0xFB : Byte) = (block 0x00 0x00 true 0xFB).cf.ctrl := by decide

theorem witness_CfVramIncReturnsOneOrThirtyTwoByBitTwo :
    (0x01 : Byte) ≠ 0x00 ∧ (0x04 : Byte).getLsbD 2 = (0xFF : Byte).getLsbD 2 := by decide

theorem witness_QueriesChangeNothingAndAnswerAlike :
    ∀ q ∈ [Instr.alGetAddr, .cfVramInc, .cfIsSetGenerateNmi], isQuery q = true := by decide

theorem witness_EachCommandReturnsItsOwnResponse : isQuery (.alWrite 0xFF) = false ∧ isQuery .alResetLatch = false := by decide

theorem witness_ComponentsDoNotInfluenceEachOther :
    (block 0x12 0x34 true 0x00).al = (block 0x12 0x34 true 0xFF).al ∧
    (block 0x12 0x34 true 0xA5).cf = (block 0x3F 0xFF false 0xA5).cf := by decide

theorem witness_OnlyUpdatesAndRestoresChangeCtrl :
    (withRequests [.command 0x8FF]).nextRequest = some (.command 0x8FF) ∧
    step (withRequests [.command 0x8FF]) = .next { withRequests [.command 0x8FF] with cf := { ctrl := 0xFF }, pc := 1 } ∧
    (({ ctrl := 0xFF } : ControlFlags) ≠ State.reset.cf) := ⟨by decide, rfl, by decide⟩

/-- The address and the latch flag both change. -/
theorem witness_AddressLatchChangesOnlyByItsWriters :
    (withRequests [.command 0x13F]).nextRequest = some (.command 0x13F) ∧
    step (withRequests [.command 0x13F]) =
      .next { withRequests [.command 0x13F] with al := { hi := 0x3F, lo := 0x00, w := false }, pc := 1 } ∧
    AddressLatch.address { hi := 0x3F, lo := 0x00, w := false } ≠ State.reset.al.address ∧ false ≠ State.reset.al.w :=
  ⟨by decide, rfl, by decide, by decide⟩

theorem witness_CpuTransactionsReachTheBlockByPort :
    (withRequests [.cpu (.write 0x2006 0x21)]).nextRequest = some (.cpu (.write 0x2006 0x21)) ∧
    (withRequests [.cpu (.read 0x2000)]).nextRequest = some (.cpu (.read 0x2000)) ∧
    (withRequests [.cpu (.wide .write 0x2006)]).nextRequest = some (.cpu (.wide .write 0x2006)) := by decide

theorem witness_DataPortAccessIncrementsAfterTheAccess :
    (withRequests [.cpu (.write dataPort 0x00)]).nextRequest = some (.cpu (.write dataPort 0x00)) ∧
    isDataPortAccess (.cpu (.write dataPort 0x00)) := ⟨rfl, portDecode_dataPort⟩

theorem witness_DataPortStreamAdvancesTheAddress :
    (withRequests [.cpu (.read dataPort), .cpu (.read dataPort)]).al.Inv ∧
    (∀ r ∈ [Request.cpu (.read dataPort), .cpu (.read dataPort)], isDataPortAccess r) ∧
    (withRequests [.cpu (.read dataPort), .cpu (.read dataPort)]).program.drop 0 =
      [.cpu (.read dataPort), .cpu (.read dataPort)] ++ [] := by
  refine ⟨by show State.reset.al.Inv; decide, fun r hr => ?_, rfl⟩
  have : r = .cpu (.read dataPort) := by simpa using hr
  rw [this]
  exact portDecode_dataPort

theorem witness_TriggerEventsResetTheLatch : (withRequests [.event 0]).nextRequest = some (.event 0) := by decide

theorem witness_CommandListsRunInOrderToTheirEnd :
    (withRequests [.command 0x300, .command 0x900]).program.drop 0 =
      ([Instr.alResetLatch, .cfVramInc].map fun i => Request.command (encode i)) ++ [] := by decide

theorem witness_EveryRunFromPowerOnStaysFourteenBit :
    Host.Core.run Sys2Proof.core 1 { State.reset with program := [.command 0x1FF] } =
      .next { State.reset with program := [.command 0x1FF], al := { hi := 0x3F, lo := 0x00, w := false }, pc := 1 } := rfl

theorem witness_WritePairingFollowsParity : (block 0x12 0x34 false 0x00).al.w = false := by decide

theorem witness_IncrementBetweenWritesKeepsItsCarry : (block 0x12 0xFF true 0x00).al.w = true := by decide

theorem witness_UpdateSetsTheStepOfTheNextAccess :
    isDataPortAccess (.cpu (.read dataPort)) ∧
    (withRequests [.command 0x804, .cpu (.read dataPort)]).program[0 + 1]? = some (.cpu (.read dataPort)) :=
  ⟨portDecode_dataPort, rfl⟩

/-- The four requests, and the refused and accepted bytes at their boundaries. -/
theorem witness_SnapshotsRestoreExactly :
    (withRequests [.snapshotAl]).nextRequest = some .snapshotAl ∧ (withRequests [.snapshotCf]).nextRequest = some .snapshotCf ∧
    (withRequests [.restoreAl 0x40 0x00 0x02]).nextRequest = some (.restoreAl 0x40 0x00 0x02) ∧
    (0x40 : Byte).extractLsb' 6 2 ≠ 0 ∧ ((0x02 : Byte) ≠ 0x00 ∧ (0x02 : Byte) ≠ 0x01) ∧ (0x3F : Byte).extractLsb' 6 2 = 0 ∧
    (withRequests [.restoreCf 0xFF]).nextRequest = some (.restoreCf 0xFF) := by decide

/-- A snapshot of AL taken in EXPECT_LOW and the restore of its bytes elsewhere; one of CF. -/
theorem witness_SnapshotsRestoreExactly_round_trip :
    let s : State := { block 0x20 0x34 false 0xA5 with program := [.snapshotAl] }
    let c : State := { block 0x20 0x34 false 0xA5 with program := [.snapshotCf] }
    s.al.Inv ∧ s.nextRequest = some .snapshotAl ∧
    step s = .next { s with responses := [.alSnapshot 0x20 0x34 0x00], pc := 1 } ∧
    (withRequests [.restoreAl 0x20 0x34 0x00]).nextRequest = some (.restoreAl 0x20 0x34 0x00) ∧
    c.nextRequest = some .snapshotCf ∧ step c = .next { c with responses := [.cfSnapshot 0xA5], pc := 1 } ∧
    (withRequests [.restoreCf 0xA5]).nextRequest = some (.restoreCf 0xA5) :=
  ⟨by decide, by decide, rfl, by decide, by decide, rfl, by decide⟩

theorem witness_AssemblerReadsBackEveryCommand : number "0x100".toList = some 256 ∧ number "255".toList = some 255 := by decide

end Sys2Proof.Tests
end

section
/-! PROOFS. What a command does to each component, as a function of that component alone, and what a list of commands leaves
in each (00_scope.md R2, 10_state.md R17). -/

namespace Sys2Proof.Machine

/-- AL after a command, from the AL before it. -/
def alAfter (l : AddressLatch) : Instr → AddressLatch
  | .alWrite d => l.writeByte d
  | .alInc step => l.increment step
  | .alResetLatch => l.resetLatch
  | _ => l

/-- CF after a command, from the CF before it. -/
def cfAfter (c : ControlFlags) : Instr → ControlFlags
  | .cfUpdate d => c.update d
  | _ => c

/-- Each component of the next state is computed from that component and the command, and from nothing else. -/
theorem exec_eq_alAfter_cfAfter (i : Instr) (s : State) :
    ∃ rs, exec i s = .next (State.finish rs { s with al := alAfter s.al i, cf := cfAfter s.cf i }) := by
  cases i <;> exact ⟨_, rfl⟩

theorem alAfter_of_isCfCommand {i : Instr} (h : isCfCommand i = true) (l : AddressLatch) : alAfter l i = l := by
  cases i with
  | alWrite | alInc | alResetLatch => cases h
  | _ => rfl

theorem cfAfter_of_not_isCfCommand {i : Instr} (h : isCfCommand i = false) (c : ControlFlags) : cfAfter c i = c := by
  cases i with
  | cfUpdate => cases h
  | _ => rfl

theorem execAll_cons_of_exec {i : Instr} {s t : State} (h : exec i s = .next t) (is : List Instr) :
    execAll (i :: is) s = execAll is t := by
  simp only [execAll, h]

/-- A list of commands completes from every state, takes each component through its own commands' effects in order, and moves
the host's index on by its length. -/
theorem execAll_completes (is : List Instr) (s : State) :
    ∃ t, execAll is s = .next t ∧ t.al = is.foldl alAfter s.al ∧ t.cf = is.foldl cfAfter s.cf ∧
      t.pc = s.pc + is.length ∧ t.program = s.program := by
  induction is generalizing s with
  | nil => exact ⟨s, rfl, rfl, rfl, rfl, rfl⟩
  | cons i is ih =>
    obtain ⟨rs, hi⟩ := exec_eq_alAfter_cfAfter i s
    obtain ⟨t, ht, hal, hcf, hpc, hprogram⟩ := ih (State.finish rs { s with al := alAfter s.al i, cf := cfAfter s.cf i })
    refine ⟨t, (execAll_cons_of_exec hi is).trans ht, hal, hcf, ?_, hprogram⟩
    rw [hpc, State.finish_pc, List.length_cons, Nat.add_right_comm, Nat.add_assoc]

/-- Leaving out of a list what has no effect does not change the effect of the list. -/
theorem foldl_filter_of_no_effect {α β : Type} {f : β → α → β} {p : α → Bool}
    (h : ∀ a, p a = false → ∀ b, f b a = b) (as : List α) (b : β) : (as.filter p).foldl f b = as.foldl f b := by
  rw [List.foldl_filter]
  congr 1
  funext b a
  cases hp : p a with
  | true => rfl
  | false => exact (h a hp b).symm

/-- AL is taken through the AddressLatch commands of a list alone. -/
theorem foldl_alAfter_filter (is : List Instr) (l : AddressLatch) :
    (is.filter fun i => !isCfCommand i).foldl alAfter l = is.foldl alAfter l :=
  foldl_filter_of_no_effect (fun _ h => alAfter_of_isCfCommand (by simpa using h)) is l

/-- CF is taken through the ControlFlags commands of a list alone. -/
theorem foldl_cfAfter_filter (is : List Instr) (c : ControlFlags) :
    (is.filter fun i => isCfCommand i).foldl cfAfter c = is.foldl cfAfter c :=
  foldl_filter_of_no_effect (fun _ h => cfAfter_of_not_isCfCommand h) is c

/-- Settles O30: each component after a list is a fold of that component's own effects, in which the other component's
commands have no part. -/
theorem componentsDoNotInfluenceEachOther : Obligations.ComponentsDoNotInfluenceEachOther := by
  intro is s t
  obtain ⟨s', hs, hsal, hscf, -⟩ := execAll_completes is s
  constructor
  · intro hal
    obtain ⟨t', ht, htal, -⟩ := execAll_completes (is.filter fun i => !isCfCommand i) t
    exact ⟨s', t', hs, ht, by rw [hsal, htal, foldl_alAfter_filter, hal]⟩
  · intro hcf
    obtain ⟨t', ht, -, htcf, -⟩ := execAll_completes (is.filter fun i => isCfCommand i) t
    exact ⟨s', t', hs, ht, by rw [hscf, htcf, foldl_cfAfter_filter, hcf]⟩

end Sys2Proof.Machine
end

section
/-! PROOFS. The 14-bit invariant (10_state.md R13) and the host's index (R18): power-on meets them, every step keeps them, and
so does every run. -/

namespace Sys2Proof.Machine

/-! ### The invariant read off the high byte -/

theorem AddressLatch.inv_iff_hi_lt (l : AddressLatch) : l.Inv ↔ l.hi.toNat < 64 := by
  have hlo := l.lo.isLt
  unfold AddressLatch.Inv AddressLatch.address
  rw [joinBytes_toNat]
  omega

theorem extractLsb'_six_two_eq_zero_iff_lt (b : Byte) : b.extractLsb' 6 2 = 0 ↔ b.toNat < 64 := by
  have hb := b.isLt
  rw [← BitVec.toNat_inj, BitVec.extractLsb'_toNat, Nat.shiftRight_eq_div_pow]
  show b.toNat / 64 % 4 = 0 ↔ b.toNat < 64
  omega

/-- The restore's test of a high byte (10_state.md R19) looks at bits 7 and 6. -/
theorem and_0xC0_eq_zero_iff (b : Byte) : b &&& 0xC0 = 0 ↔ b.extractLsb' 6 2 = 0 := by
  revert b
  decide

/-- Masking an address works on each of its bytes alone, and the low byte's part of the mask is all ones. -/
theorem AddressLatch.setAddress_and_addrMask (l : AddressLatch) :
    l.setAddress (l.address &&& addrMask) = { l with hi := l.hi &&& 0x3F } := by
  have hhi : highByte (l.address &&& addrMask) = l.hi &&& 0x3F :=
    BitVec.extractLsb'_and.trans (congrArg (· &&& highByte addrMask) (highByte_joinBytes l.hi l.lo))
  have hlo : lowByte (l.address &&& addrMask) = l.lo :=
    BitVec.extractLsb'_and.trans
      ((congrArg (· &&& lowByte addrMask) (lowByte_joinBytes l.hi l.lo)).trans BitVec.and_allOnes)
  unfold AddressLatch.setAddress
  rw [hhi, hlo]

/-! ### What keeps it -/

/-- The fold that ends every write and increment makes the invariant hold, whatever stood before. -/
theorem AddressLatch.inv_fold (l : AddressLatch) : l.fold.Inv := by
  unfold AddressLatch.Inv
  rw [AddressLatch.address_fold, and_addrMask_toNat]
  omega

theorem AlChange.inv {l l' : AddressLatch} (h : AlChange l l') (hl : l.Inv) : l'.Inv := by
  cases h with
  | kept => exact hl
  | written d => exact AddressLatch.inv_fold _
  | incremented step => exact AddressLatch.inv_fold _
  | latchReset => exact hl
  | restored b0 b1 w h =>
    rw [and_0xC0_eq_zero_iff, extractLsb'_six_two_eq_zero_iff_lt] at h
    exact (AddressLatch.inv_iff_hi_lt _).mpr h

theorem step_inv {s t : State} (h : step s = .next t) (hs : s.Inv) : t.Inv := by
  obtain ⟨r, hr, hserve⟩ := step_next h
  obtain ⟨hal, hprogram, hpc⟩ := serve_next hserve
  have hlt : s.pc < s.program.length := (List.getElem?_eq_some_iff.mp hr).1
  exact ⟨hal.inv hs.1, by rw [hprogram, hpc]; exact hlt⟩

/-- Settles O9: whatever request is served, the host's side is advanced by one entry. -/
theorem everyStepAdvancesTheIndexByOne : Obligations.EveryStepAdvancesTheIndexByOne := by
  intro s t h
  obtain ⟨r, -, hserve⟩ := step_next h
  obtain ⟨-, hprogram, hpc⟩ := serve_next hserve
  exact ⟨hpc, hprogram⟩

/-- Settles O12: the power-on address and index are 0. -/
theorem powerOnMeetsTheInvariant : Obligations.PowerOnMeetsTheInvariant :=
  ⟨by decide, Nat.le_refl 0⟩

/-- Settles O13: each way a request can change AL keeps the address within 14 bits. -/
theorem everyStepKeepsTheFourteenBitInvariant : Obligations.EveryStepKeepsTheFourteenBitInvariant := by
  refine ⟨powerOnMeetsTheInvariant.1, fun s t hs h => step_inv h hs, fun i s hs => ?_, fun l => ⟨?_, ?_⟩⟩
  · obtain ⟨al, cf, rs, h⟩ := exec_next_form i s
    exact ⟨_, h, (exec_alChange h).inv hs.1⟩
  · exact l.inv_iff_hi_lt.trans (extractLsb'_six_two_eq_zero_iff_lt l.hi).symm
  · exact l.setAddress_and_addrMask

/-! ### Runs -/

/-- A run of `n + 1` steps that is taken whole takes its first step and then a run of `n`. -/
theorem run_succ_next {n : Nat} {s t : State} (h : Host.Core.run Sys2Proof.core (n + 1) s = .next t) :
    ∃ u, step s = .next u ∧ Host.Core.run Sys2Proof.core n u = .next t := by
  cases hstep : step s with
  | next u => exact ⟨u, rfl, (run_succ_of_step hstep).symm.trans h⟩
  | fault f => cases f
  | refused r =>
    have hstep : Sys2Proof.core.step s = .refused r := hstep
    simp only [Host.Core.run] at h
    rw [hstep] at h
    cases h

/-- A run keeps the invariant and moves the index on by one for each step. -/
theorem run_inv_pc {n : Nat} {s t : State} (h : Host.Core.run Sys2Proof.core n s = .next t) (hs : s.Inv) :
    t.Inv ∧ t.pc = s.pc + n := by
  induction n generalizing s with
  | zero =>
    cases h
    exact ⟨hs, rfl⟩
  | succ n ih =>
    obtain ⟨u, hstep, hrun⟩ := run_succ_next h
    obtain ⟨ht, hpc⟩ := ih hrun (step_inv hstep hs)
    obtain ⟨hupc, -⟩ := everyStepAdvancesTheIndexByOne s u hstep
    exact ⟨ht, by omega⟩

/-- Settles O38: placing a list of requests keeps the power-on invariant, and the run keeps it from there. -/
theorem everyRunFromPowerOnStaysFourteenBit : Obligations.EveryRunFromPowerOnStaysFourteenBit := by
  intro rs n t h
  have hreset : State.Inv { State.reset with program := rs } := ⟨powerOnMeetsTheInvariant.1, Nat.zero_le _⟩
  obtain ⟨⟨haddress, -⟩, hpc⟩ := run_inv_pc h hreset
  exact ⟨haddress, hpc.trans (Nat.zero_add n)⟩

end Sys2Proof.Machine
end

section
/-! PROOFS. The command word and its fields (30_encoding.md R36 to R38): decoding and encoding are inverse, a step executes the
command its word decodes to, and a list of command words runs in order (10_state.md R18). -/

namespace Sys2Proof

/-! ### The fields of a word -/

@[simp] theorem opField_commandWord (op : BitVec 4) (x : Byte) : opField (commandWord op x) = op :=
  BitVec.extractLsb'_append_eq_left

@[simp] theorem operandField_commandWord (op : BitVec 4) (x : Byte) : operandField (commandWord op x) = x :=
  BitVec.extractLsb'_append_eq_right

/-- A word is put together from its two fields. -/
theorem commandWord_operandField {w : CommandWord} {op : BitVec 4} (h : (opField w).toNat = op.toNat) :
    commandWord op (operandField w) = w := by
  rw [← BitVec.eq_of_toNat_eq h]
  exact BitVec.extractLsb'_append_extractLsb'

/-! ### Decoding and encoding are inverse -/

/-- Every command is decoded from its word. -/
theorem decode_encode (i : Instr) : decode (encode i) = .ok i := by
  cases i <;> simp [decode, encode, decodeNoOperand, decodeIsSet]

theorem decodeNoOperand_ok {x : Byte} {i j : Instr} (h : decodeNoOperand x j = .ok i) : x = 0 ∧ j = i := by
  unfold decodeNoOperand at h
  split at h
  · cases h
    exact ⟨‹_›, rfl⟩
  · cases h

theorem decodeIsSet_ok {x : Byte} {i : Instr} (h : decodeIsSet x = .ok i) : encode i = commandWord 0xA x := by
  unfold decodeIsSet at h
  split at h
  case h_9 => cases h
  all_goals
    cases h
    exact congrArg (commandWord 0xA) (BitVec.eq_of_toNat_eq (Eq.symm ‹_›))

theorem encode_of_decodeNoOperand (op : BitVec 4) {w : CommandWord} {i j : Instr} (hj : encode j = commandWord op 0)
    (hop : (opField w).toNat = op.toNat) (h : decodeNoOperand (operandField w) j = .ok i) : encode i = w := by
  obtain ⟨hx, rfl⟩ := decodeNoOperand_ok h
  rw [hj, ← hx, commandWord_operandField hop]

/-- A word that decodes is the word of its command. -/
theorem encode_of_decode {w : CommandWord} {i : Instr} (h : decode w = .ok i) : encode i = w := by
  unfold decode at h
  dsimp only at h
  split at h
  case h_1 hop | h_2 hop | h_5 hop =>
    cases h
    exact commandWord_operandField hop
  case h_3 hop => exact encode_of_decodeNoOperand 0x3 rfl hop h
  case h_4 hop => exact encode_of_decodeNoOperand 0x4 rfl hop h
  case h_6 hop => exact encode_of_decodeNoOperand 0x9 rfl hop h
  case h_7 hop => exact (decodeIsSet_ok h).trans (commandWord_operandField hop)
  case h_8 => cases h

end Sys2Proof

namespace Sys2Proof.Machine

/-! ### The step -/

/-- Settles O6: a step serves the next request, and serving a word that decodes is executing its command. -/
theorem stepExecutesTheDecodedCommand : Obligations.StepExecutesTheDecodedCommand := by
  intro s w i hnext hdecode
  exact (step_of_nextRequest hnext).trans (serveCommand_of_decode hdecode s)

/-- A table word that decodes is a command word that decodes. -/
theorem decode_of_decodeTableWord {nbits w : Nat} {i : Instr} (h : decodeTableWord nbits w = some i) :
    ∃ cw, tableWord w = some cw ∧ decode cw = .ok i := by
  obtain ⟨cw, hcw, hdecode⟩ := Option.bind_eq_some_iff.mp h
  refine ⟨cw, hcw, ?_⟩
  cases hd : decode cw with
  | ok j =>
    rw [hd] at hdecode
    cases hdecode
    rfl
  | error e =>
    rw [hd] at hdecode
    cases hdecode

/-- Settles O7: the placed word is the next request, and placing it touches the list of requests alone. -/
theorem placedWordIsTheNextExecuted : Obligations.PlacedWordIsTheNextExecuted := by
  intro s nbits w i h
  obtain ⟨cw, hcw, hdecode⟩ := decode_of_decodeTableWord h
  have hplaced : s.withFetchWord nbits w = s.placeRequest (.command cw) := by
    unfold State.withFetchWord
    rw [hcw, Option.getD_some]
  rw [hplaced]
  exact ⟨stepExecutesTheDecodedCommand _ cw i (s.nextRequest_placeRequest _) hdecode, ⟨rfl, rfl⟩, rfl, rfl⟩

/-! ### Runs of command words -/

theorem step_of_nextRequest_encode {s : State} {i : Instr} (h : s.nextRequest = some (.command (encode i))) :
    step s = exec i s :=
  stepExecutesTheDecodedCommand s (encode i) i h (decode_encode i)

/-- The words of a list of commands, standing next, run as the commands executed in order, whatever follows them. -/
theorem run_commands_eq_execAll (is : List Instr) (rest : List Request) (s : State)
    (h : s.program.drop s.pc = (is.map fun i => Request.command (encode i)) ++ rest) :
    Host.Core.run Sys2Proof.core is.length s = execAll is s := by
  induction is generalizing s with
  | nil => rfl
  | cons i is ih =>
    obtain ⟨hnext, hrest⟩ := nextRequest_of_drop h
    obtain ⟨al, cf, rs, hexec⟩ := exec_next_form i s
    rw [execAll_cons_of_exec hexec, List.length_cons,
      run_succ_of_step ((step_of_nextRequest_encode hnext).trans hexec)]
    exact ih _ hrest

theorem step_runEnded {s : State} (h : s.program.length ≤ s.pc) : step s = .refused .runEnded := by
  have hnone : s.nextRequest = none := List.getElem?_eq_none h
  unfold step
  rw [hnone]

/-- Settles O37: the run is the execution of the commands in order, and after them nothing is left. -/
theorem commandListsRunInOrderToTheirEnd : Obligations.CommandListsRunInOrderToTheirEnd := by
  intro is rest s h
  obtain ⟨t, ht, -, -, hpc, hprogram⟩ := execAll_completes is s
  refine ⟨t, (run_commands_eq_execAll is rest s h).trans ht, ht, hpc, fun hrest => step_runEnded ?_⟩
  have hlength := congrArg List.length h
  rw [hrest, List.append_nil, List.length_drop, List.length_map] at hlength
  rw [hprogram, hpc]
  omega

end Sys2Proof.Machine
end

section
/-! PROOFS. Which request may change which register (10_state.md R10 to R12, R15; 70_reset_and_hazards.md R81, R82): one
inversion of a served request, from which each register's writers are read off. -/

namespace Sys2Proof.Machine

/-- What a request, served in `s`, can make of AL and CF, with the forms of request that do so. -/
inductive RegisterChange (r : Request) (s : State) : AddressLatch → ControlFlags → Prop where
  | kept : RegisterChange r s s.al s.cf
  | alWrite (d : Byte) (h : isAlWrite d r) : RegisterChange r s (s.al.writeByte d) s.cf
  | alInc (k : Byte) (h : r = .command (encode (.alInc k))) : RegisterChange r s (s.al.increment k) s.cf
  | dataPort (h : isDataPortAccess r) : RegisterChange r s (s.al.increment s.cf.vramAddrIncrement) s.cf
  | latchReset (h : isLatchReset r) : RegisterChange r s s.al.resetLatch s.cf
  | cfUpdate (d : Byte) (h : isCfUpdate d r) : RegisterChange r s s.al { ctrl := d }
  | restoreAl (b0 b1 b2 : Byte) (w : Bool) (h : r = .restoreAl b0 b1 b2) (hw : latchOfByte b2 = some w) :
    RegisterChange r s { hi := b0, lo := b1, w := w } s.cf
  | restoreCf (b : Byte) (h : r = .restoreCf b) : RegisterChange r s s.al { ctrl := b }

/-! ### Every served request is one of these -/

theorem RegisterChange.of_exec {i : Instr} {s t : State} (h : exec i s = .next t) :
    RegisterChange (.command (encode i)) s t.al t.cf := by
  cases i with
  | alWrite d => cases h; exact .alWrite d (.inl rfl)
  | alInc k => cases h; exact .alInc k rfl
  | alResetLatch => cases h; exact .latchReset (.inl rfl)
  | cfUpdate d => cases h; exact .cfUpdate d (.inl rfl)
  | _ => cases h; exact .kept

theorem RegisterChange.of_platformEvent {e : PlatformEvent} {r : Request} {s t : State}
    (hr : Config.latchResetTrigger e = true → isLatchReset r) (h : platformEvent e s = .next t) :
    RegisterChange r s t.al t.cf := by
  obtain ⟨hal, hcf, -⟩ := platformEvent_next h
  rw [hal, hcf]
  split
  · exact .latchReset (hr ‹_›)
  · exact .kept

theorem RegisterChange.of_busRead {a : Address} {s t : State} (h : busRead a s = .next t) :
    RegisterChange (.cpu (.read a)) s t.al t.cf := by
  unfold busRead at h
  split at h
  case h_1 | h_2 => cases h
  case h_3 hport => cases h; exact .dataPort hport
  case h_4 hport => exact of_platformEvent (fun he => .inr (.inr (.inl ⟨a, rfl, hport, he⟩))) h

theorem RegisterChange.of_busWrite {a : Address} {d : Byte} {s t : State} (h : busWrite a d s = .next t) :
    RegisterChange (.cpu (.write a d)) s t.al t.cf := by
  unfold busWrite at h
  split at h
  case h_1 hport => cases h; exact .alWrite d (.inr ⟨a, rfl, hport⟩)
  case h_2 hport => cases h; exact .cfUpdate d (.inr ⟨a, rfl, hport⟩)
  case h_3 hport => cases h; exact .dataPort hport
  case h_4 hport => exact of_platformEvent (fun he => .inr (.inr (.inr ⟨a, d, rfl, hport, he⟩))) h

theorem serve_registerChange {r : Request} {s t : State} (h : serve r s = .next t) :
    RegisterChange r s t.al t.cf := by
  cases r with
  | command w =>
    cases hw : decode w with
    | ok i =>
      have hexec : exec i s = .next t := (serveCommand_of_decode hw s).symm.trans h
      exact encode_of_decode hw ▸ RegisterChange.of_exec hexec
    | error e =>
      simp only [serve, serveCommand, hw] at h
      cases h
  | cpu c =>
    cases c with
    | read a => exact .of_busRead h
    | write a d => exact .of_busWrite h
    | wide rw a => cases h
  | event e => exact .of_platformEvent (fun he => .inr (.inl ⟨e, rfl, he⟩)) h
  | snapshotAl => cases h; exact .kept
  | snapshotCf => cases h; exact .kept
  | restoreAl b0 b1 b2 =>
    obtain ⟨-, w, hw, hal, hcf, -⟩ := restoreAl_next h
    rw [hal, hcf]
    exact .restoreAl b0 b1 b2 w rfl hw
  | restoreCf b => cases h; exact .restoreCf b rfl

theorem step_registerChange {s t : State} {r : Request} (hr : s.nextRequest = some r) (h : step s = .next t) :
    RegisterChange r s t.al t.cf :=
  serve_registerChange ((step_of_nextRequest hr).symm.trans h)

/-! ### The writers of each register -/

theorem RegisterChange.cf_writers {r : Request} {s : State} {l : AddressLatch} {c : ControlFlags}
    (h : RegisterChange r s l c) (hne : c ≠ s.cf) :
    (∃ d, isCfUpdate d r ∧ c.ctrl = d) ∨ ∃ b, r = .restoreCf b ∧ c.ctrl = b := by
  cases h with
  | cfUpdate d h => exact .inl ⟨d, h, rfl⟩
  | restoreCf b h => exact .inr ⟨b, h, rfl⟩
  | _ => exact absurd rfl hne

theorem RegisterChange.address_writers {r : Request} {s : State} {l : AddressLatch} {c : ControlFlags}
    (h : RegisterChange r s l c) (hne : l.address ≠ s.al.address) :
    (∃ d, isAlWrite d r) ∨ (∃ k, r = .command (encode (.alInc k))) ∨ isDataPortAccess r ∨
      ∃ b0 b1 b2, r = .restoreAl b0 b1 b2 := by
  cases h with
  | alWrite d h => exact .inl ⟨d, h⟩
  | alInc k h => exact .inr (.inl ⟨k, h⟩)
  | dataPort h => exact .inr (.inr (.inl h))
  | restoreAl b0 b1 b2 w h => exact .inr (.inr (.inr ⟨b0, b1, b2, h⟩))
  | _ => exact absurd rfl hne

theorem RegisterChange.latch_writers {r : Request} {s : State} {l : AddressLatch} {c : ControlFlags}
    (h : RegisterChange r s l c) (hne : l.w ≠ s.al.w) :
    (∃ d, isAlWrite d r) ∨ (isLatchReset r ∧ l.w = true) ∨ ∃ b0 b1 b2, r = .restoreAl b0 b1 b2 := by
  cases h with
  | alWrite d h => exact .inl ⟨d, h⟩
  | latchReset h => exact .inr (.inl ⟨h, rfl⟩)
  | restoreAl b0 b1 b2 w h => exact .inr (.inr ⟨b0, b1, b2, h⟩)
  | _ => exact absurd rfl hne

/-- Settles O31: of the ways a served request can change the registers, two reach CF. -/
theorem onlyUpdatesAndRestoresChangeCtrl : Obligations.OnlyUpdatesAndRestoresChangeCtrl := by
  intro s t r hr h hne
  exact (step_registerChange hr h).cf_writers hne

/-- Settles O32: the address and the latch flag are reached by their own writers alone; an increment keeps the flag and a
latch reset keeps the address. -/
theorem addressLatchChangesOnlyByItsWriters : Obligations.AddressLatchChangesOnlyByItsWriters := by
  intro s t r hr h
  have hchange := step_registerChange hr h
  exact ⟨hchange.address_writers, hchange.latch_writers⟩

end Sys2Proof.Machine
end

section
/-! PROOFS. Snapshot and restore of each component (10_state.md R19, 70_reset_and_hazards.md R89). -/

namespace Sys2Proof.Machine

/-! ### The latch byte -/

theorem latchOfByte_latchByte (w : Bool) : latchOfByte (latchByte w) = some w := by
  cases w <;> rfl

theorem latchOfByte_eq_none {b : Byte} (h0 : b ≠ 0x00) (h1 : b ≠ 0x01) : latchOfByte b = none := by
  unfold latchOfByte
  rw [if_neg h1, if_neg h0]

theorem latchOfByte_eq_some {b : Byte} (h : b = 0x00 ∨ b = 0x01) : latchOfByte b = some (decide (b = 0x01)) := by
  obtain rfl | rfl := h <;> rfl

/-! ### The restore of AL -/

theorem restoreAl_refused_of_hi {b0 : Byte} (h : b0.extractLsb' 6 2 ≠ 0) (b1 b2 : Byte) (s : State) :
    restoreAl b0 b1 b2 s = .refused .invalidSnapshot := by
  have hmask : b0 &&& 0xC0 ≠ 0 := mt (and_0xC0_eq_zero_iff b0).mp h
  unfold restoreAl
  rw [if_pos (bne_iff_ne.mpr hmask)]

theorem restoreAl_refused_of_latchByte {b2 : Byte} (h : latchOfByte b2 = none) (b0 b1 : Byte) (s : State) :
    restoreAl b0 b1 b2 s = .refused .invalidSnapshot := by
  unfold restoreAl
  rw [h]
  split <;> rfl

theorem restoreAl_of_valid {b0 b2 : Byte} {w : Bool} (hb0 : b0.extractLsb' 6 2 = 0) (hw : latchOfByte b2 = some w)
    (b1 : Byte) (s : State) :
    restoreAl b0 b1 b2 s = .next (State.finish [] { s with al := { hi := b0, lo := b1, w := w } }) := by
  have hmask : ¬ (b0 &&& 0xC0 != 0) = true := by
    rw [bne_iff_ne, not_not]
    exact (and_0xC0_eq_zero_iff b0).mpr hb0
  unfold restoreAl
  rw [if_neg hmask, hw]

/-- The bytes of an AL snapshot taken in a state of R13, restored into any state, give back AL, the latch flag among it. -/
theorem restoreAl_of_snapshot {l : AddressLatch} (hl : l.Inv) (v : State) :
    restoreAl l.hi l.lo (latchByte l.w) v = .next (State.finish [] { v with al := l }) :=
  restoreAl_of_valid ((extractLsb'_six_two_eq_zero_iff_lt l.hi).mpr (l.inv_iff_hi_lt.mp hl)) (latchOfByte_latchByte l.w)
    l.lo v

/-- Settles O42: a snapshot holds the fields as they stand, and a restore either is refused or writes its fields back. -/
theorem snapshotsRestoreExactly : Obligations.SnapshotsRestoreExactly := by
  refine ⟨fun s => ⟨step_of_nextRequest, step_of_nextRequest, fun b0 b1 b2 hr => ⟨?_, ?_⟩, fun b => step_of_nextRequest⟩,
    ?_, ?_⟩
  · rw [step_of_nextRequest hr]
    rintro (hhi | ⟨h0, h1⟩)
    · exact restoreAl_refused_of_hi hhi b1 b2 s
    · exact restoreAl_refused_of_latchByte (latchOfByte_eq_none h0 h1) b0 b1 s
  · intro hhi hlatch
    rw [step_of_nextRequest hr]
    exact restoreAl_of_valid hhi (latchOfByte_eq_some hlatch) b1 s
  · intro s u v hs hu hsnapshot b0 b1 b2 hbytes hrestore
    cases hu.symm.trans (step_of_nextRequest hsnapshot)
    cases hbytes
    exact ⟨_, (step_of_nextRequest hrestore).trans (restoreAl_of_snapshot hs v), rfl, rfl⟩
  · intro s u v hu hsnapshot b hbytes hrestore
    cases hu.symm.trans (step_of_nextRequest hsnapshot)
    cases hbytes
    exact ⟨_, step_of_nextRequest hrestore, rfl, rfl⟩

end Sys2Proof.Machine
end

section
/-! PROOFS. The increment as arithmetic (40_address_latch.md R46, R47) and the step in effect as bit 2 of `CF.ctrl`
(41_control_flags.md R56). -/

namespace Sys2Proof.Machine

/-! ### The step in effect -/

/-- The step in effect is decided by bit 2 of `CF.ctrl` alone. -/
theorem ControlFlags.vramAddrIncrement_eq_ite (c : ControlFlags) :
    c.vramAddrIncrement = if c.ctrl.getLsbD 2 then 32 else 1 := by
  have hmask : c.ctrl &&& vramAddIncrementMask = if c.ctrl.getLsbD 2 then BitVec.twoPow 8 2 else 0 :=
    BitVec.and_twoPow c.ctrl 2
  unfold ControlFlags.vramAddrIncrement
  rw [hmask]
  cases c.ctrl.getLsbD 2 <;> rfl

/-! ### The increment -/

/-- The carry test of R46: an 8-bit sum is below its first summand exactly if the true sum does not fit in a byte. -/
theorem add_lt_left_iff_carry (x y : Byte) : x + y < x ↔ 256 ≤ x.toNat + y.toNat := by
  have hx := x.isLt
  have hy := y.isLt
  rw [BitVec.lt_def, BitVec.toNat_add]
  omega

/-- Before the fold, the byte-wise addition with its carry is the 16-bit addition of the step. -/
theorem AddressLatch.address_addStep (s : Byte) (l : AddressLatch) :
    (l.addStep s).address = l.address + s.setWidth 16 := by
  have hhi := l.hi.isLt
  have hlo := l.lo.isLt
  have hs := s.isLt
  apply BitVec.eq_of_toNat_eq
  rw [BitVec.toNat_add, BitVec.toNat_setWidth]
  unfold AddressLatch.address AddressLatch.addStep
  rw [joinBytes_toNat, joinBytes_toNat, BitVec.toNat_add]
  simp only [add_lt_left_iff_carry]
  split
  case isTrue hcarry =>
    rw [BitVec.toNat_add]
    show (l.hi.toNat + 1) % 2 ^ 8 * 256 + _ = _
    omega
  case isFalse hcarry => omega

/-- An increment adds the step to the address modulo 2^14, from every address. -/
theorem AddressLatch.address_increment_toNat (s : Byte) (l : AddressLatch) :
    (l.increment s).address.toNat = (l.address.toNat + s.toNat) % 2 ^ 14 := by
  have hs := s.isLt
  unfold AddressLatch.increment
  rw [AddressLatch.address_fold, and_addrMask_toNat, AddressLatch.address_addStep, BitVec.toNat_add,
    BitVec.toNat_setWidth]
  omega

/-! ### The increment repeated -/

theorem AddressLatch.iterate_increment_w (s : Byte) (n : Nat) (l : AddressLatch) :
    ((AddressLatch.increment s)^[n] l).w = l.w := by
  induction n with
  | zero => rfl
  | succ n ih => rw [Function.iterate_succ_apply', AddressLatch.increment_w, ih]

/-- From an address of R13, `n` increments add `n` times the step modulo 2^14. -/
theorem AddressLatch.address_iterate_increment_toNat (s : Byte) (n : Nat) {l : AddressLatch} (hl : l.Inv) :
    ((AddressLatch.increment s)^[n] l).address.toNat = (l.address.toNat + n * s.toNat) % 2 ^ 14 := by
  induction n with
  | zero =>
    have hlt : l.address.toNat < 2 ^ 14 := Nat.lt_succ_of_le hl
    rw [Function.iterate_zero_apply, Nat.zero_mul, Nat.add_zero, Nat.mod_eq_of_lt hlt]
  | succ n ih =>
    rw [Function.iterate_succ_apply', AddressLatch.address_increment_toNat, ih, Nat.mod_add_mod, Nat.add_assoc,
      Nat.succ_mul]

end Sys2Proof.Machine
end

section
/-! PROOFS. The data port (20_memory.md R31): one access, and any number of them in a row. -/

namespace Sys2Proof.Machine

/-- The step that serves a data-port access answers the address and the step as they stand, and increments. -/
theorem step_of_isDataPortAccess {s : State} {r : Request} (hr : s.nextRequest = some r) (h : isDataPortAccess r) :
    step s = .next (State.finish [.address s.al.address, .step s.cf.vramAddrIncrement]
      { s with al := s.al.increment s.cf.vramAddrIncrement }) :=
  (step_of_nextRequest hr).trans (serve_of_isDataPortAccess h s)

/-- Settles O34: the access answers from the state before it, and its three commands, of which only the increment changes a
register, leave the same registers. -/
theorem dataPortAccessIncrementsAfterTheAccess : Obligations.DataPortAccessIncrementsAfterTheAccess := by
  intro s r hr h k
  have hk : s.cf.vramAddrIncrement = k := s.cf.vramAddrIncrement_eq_ite
  have hstep := step_of_isDataPortAccess hr h
  rw [hk] at hstep
  obtain ⟨u, hu, hual, hucf, -⟩ := execAll_completes [.alGetAddr, .cfVramInc, .alInc k] s
  exact ⟨_, hstep, rfl, rfl, rfl, ⟨rfl, rfl⟩, u, hu, hual, hucf⟩

/-- Data-port accesses that stand next are each one increment by the step in effect, which none of them changes. -/
theorem run_dataPortAccesses (rs rest : List Request) (s : State) (hrs : ∀ r ∈ rs, isDataPortAccess r)
    (h : s.program.drop s.pc = rs ++ rest) :
    ∃ t : State, Host.Core.run Sys2Proof.core rs.length s = .next t ∧
      t.al = (AddressLatch.increment s.cf.vramAddrIncrement)^[rs.length] s.al ∧ t.cf = s.cf ∧
      t.pc = s.pc + rs.length := by
  induction rs generalizing s with
  | nil => exact ⟨s, rfl, rfl, rfl, rfl⟩
  | cons r rs ih =>
    obtain ⟨hr, hrs⟩ := List.forall_mem_cons.mp hrs
    obtain ⟨hnext, hrest⟩ := nextRequest_of_drop h
    obtain ⟨t, hrun, hal, hcf, hpc⟩ :=
      ih (State.finish _ { s with al := s.al.increment s.cf.vramAddrIncrement }) hrs hrest
    refine ⟨t, (run_succ_of_step (step_of_isDataPortAccess hnext hr)).trans hrun, hal, hcf, ?_⟩
    rw [hpc, State.finish_pc, List.length_cons, Nat.add_right_comm, Nat.add_assoc]

/-- Settles O35: the run is as many increments by one step, and those add up modulo 2^14. -/
theorem dataPortStreamAdvancesTheAddress : Obligations.DataPortStreamAdvancesTheAddress := by
  intro rs rest s hs hrs h
  obtain ⟨t, hrun, hal, hcf, hpc⟩ := run_dataPortAccesses rs rest s hrs h
  have hstep : s.cf.vramAddrIncrement.toNat = if s.cf.ctrl.getLsbD 2 then 32 else 1 := by
    rw [ControlFlags.vramAddrIncrement_eq_ite]
    split <;> rfl
  refine ⟨t, hrun, ?_, ?_, hcf, hpc⟩
  · rw [hal, AddressLatch.address_iterate_increment_toNat _ _ hs, hstep]
  · rw [hal, AddressLatch.iterate_increment_w]

end Sys2Proof.Machine
end

section
/-! PROOFS. Which command words are refused, and why (30_encoding.md R40, R41), and the rows of the operation map (R37). -/

namespace Sys2Proof

/-! ### The fields of a word as numbers -/

theorem opField_toNat (w : CommandWord) : (opField w).toNat = w.toNat / 256 := by
  have hw := w.isLt
  unfold opField
  rw [BitVec.extractLsb'_toNat, Nat.shiftRight_eq_div_pow]
  omega

theorem operandField_toNat (w : CommandWord) : (operandField w).toNat = w.toNat % 256 := by
  unfold operandField
  rw [BitVec.extractLsb'_toNat, Nat.shiftRight_zero]

/-! ### The clauses of R40 -/

theorem decode_of_reservedOp {w : CommandWord} (h : (opField w).toNat ∈ reservedOps) :
    decode w = .error .reservedOp := by
  unfold decode
  dsimp only
  split
  case h_8 => rfl
  all_goals
    rw [‹(opField w).toNat = _›] at h
    exact absurd h (by decide)

theorem decodeNoOperand_of_ne {x : Byte} (hx : x ≠ 0) (i : Instr) :
    decodeNoOperand x i = .error .operandNotZero := if_neg hx

theorem decode_of_operandNotZero {w : CommandWord} (hop : (opField w).toNat ∈ [0x3, 0x4, 0x9])
    (hx : operandField w ≠ 0) : decode w = .error .operandNotZero := by
  simp only [List.mem_cons, List.not_mem_nil, or_false] at hop
  rcases hop with hop | hop | hop <;> simp only [decode, hop, decodeNoOperand_of_ne hx]

theorem decodeIsSet_of_large {x : Byte} (hx : x.toNat / 8 ≠ 0) : decodeIsSet x = .error .flagIndexTooLarge := by
  unfold decodeIsSet
  split
  case h_9 => rfl
  all_goals omega

theorem decode_of_flagIndexTooLarge {w : CommandWord} (hop : (opField w).toNat = 0xA)
    (hx : (operandField w).toNat / 8 ≠ 0) : decode w = .error .flagIndexTooLarge := by
  simp only [decode, hop, decodeIsSet_of_large hx]

/-! ### The words no clause holds of -/

theorem decode_ok_of_operandOp {w : CommandWord} (hop : (opField w).toNat ∈ [0x1, 0x2, 0x8]) :
    ∃ i, decode w = .ok i := by
  simp only [List.mem_cons, List.not_mem_nil, or_false] at hop
  rcases hop with hop | hop | hop <;> simp [decode, hop]

theorem decode_ok_of_operandZero {w : CommandWord} (hop : (opField w).toNat ∈ [0x3, 0x4, 0x9])
    (hx : operandField w = 0) : ∃ i, decode w = .ok i := by
  simp only [List.mem_cons, List.not_mem_nil, or_false] at hop
  rcases hop with hop | hop | hop <;> simp [decode, hop, hx, decodeNoOperand]

theorem decodeIsSet_ok_of_small {x : Byte} (hx : x.toNat / 8 = 0) : ∃ i, decodeIsSet x = .ok i := by
  have hlt : x.toNat < 8 := by omega
  unfold decodeIsSet
  interval_cases x.toNat <;> exact ⟨_, rfl⟩

theorem decode_ok_of_flagIndex {w : CommandWord} (hop : (opField w).toNat = 0xA)
    (hx : (operandField w).toNat / 8 = 0) : ∃ i, decode w = .ok i := by
  simp only [decode, hop, decodeIsSet_ok_of_small hx]

/-! ### The rows of the operation map -/

/-- The word of every command lies in the command's row. -/
theorem row_matches_encode (i : Instr) : i.row.matches (encode i) = true := by
  cases i with
  | alWrite d => exact Laws.RowMatch.alWrite d
  | alInc s => exact Laws.RowMatch.alInc s
  | alResetLatch => exact Laws.RowMatch.alResetLatch
  | alGetAddr => exact Laws.RowMatch.alGetAddr
  | cfUpdate d => exact Laws.RowMatch.cfUpdate d
  | cfVramInc => exact Laws.RowMatch.cfVramInc
  | cfIsSetNametable1 => exact Laws.RowMatch.cfIsSetNametable1
  | cfIsSetNametable2 => exact Laws.RowMatch.cfIsSetNametable2
  | cfIsSetVramAddIncrement => exact Laws.RowMatch.cfIsSetVramAddIncrement
  | cfIsSetSpritePatternAddr => exact Laws.RowMatch.cfIsSetSpritePatternAddr
  | cfIsSetBackgroundPatternAddr => exact Laws.RowMatch.cfIsSetBackgroundPatternAddr
  | cfIsSetSpriteSize => exact Laws.RowMatch.cfIsSetSpriteSize
  | cfIsSetMasterSlaveSelect => exact Laws.RowMatch.cfIsSetMasterSlaveSelect
  | cfIsSetGenerateNmi => exact Laws.RowMatch.cfIsSetGenerateNmi

/-- A row whose mask is the op field holds the words of that op alone, with any operand. -/
theorem eq_commandWord_of_matches_op (op : BitVec 4) {w : CommandWord}
    (h : (OpcodeRow.mk (commandWord op 0) 0xF00).matches w = true) : commandWord op (operandField w) = w := by
  have hmask : w &&& commandWord 0xF 0 = commandWord op 0 := eq_of_beq h
  apply commandWord_operandField
  have hop := congrArg opField hmask
  have hand : opField (w &&& commandWord 0xF 0) = opField w &&& opField (commandWord 0xF 0) := BitVec.extractLsb'_and
  rw [hand, opField_commandWord, opField_commandWord] at hop
  exact congrArg BitVec.toNat (BitVec.and_allOnes.symm.trans hop)

/-- A row whose mask is the whole word holds one word. -/
theorem eq_pattern_of_matches_word {p w : CommandWord} (h : (OpcodeRow.mk p 0xFFF).matches w = true) : p = w :=
  (eq_of_beq h).symm.trans BitVec.and_allOnes

/-- A word is in the row of a command exactly if it decodes to a command of that row. -/
theorem row_matches_iff (i : Instr) (w : CommandWord) :
    i.row.matches w = true ↔ ∃ j, decode w = .ok j ∧ j.row = i.row := by
  constructor
  · intro h
    suffices hword : ∃ j, encode j = w ∧ j.row = i.row by
      obtain ⟨j, rfl, hrow⟩ := hword
      exact ⟨j, decode_encode j, hrow⟩
    cases i with
    | alWrite => exact ⟨.alWrite (operandField w), eq_commandWord_of_matches_op 0x1 h, rfl⟩
    | alInc => exact ⟨.alInc (operandField w), eq_commandWord_of_matches_op 0x2 h, rfl⟩
    | cfUpdate => exact ⟨.cfUpdate (operandField w), eq_commandWord_of_matches_op 0x8 h, rfl⟩
    | _ =>
      refine ⟨_, ?_, rfl⟩
      exact eq_pattern_of_matches_word h
  · rintro ⟨j, hdecode, hrow⟩
    rw [← encode_of_decode hdecode, ← hrow]
    exact row_matches_encode j

theorem exists_row_of_mem_opcodeTable {r : OpcodeRow} (h : r ∈ opcodeTable) : ∃ i : Instr, i.row = r :=
  let ⟨i, _, hrow⟩ := List.mem_map.mp h
  ⟨i, hrow⟩

theorem row_mem_opcodeTable (i : Instr) : i.row ∈ opcodeTable := by
  cases i <;> simp [opcodeTable, Instr.row]

theorem nodup_opcodeTable : opcodeTable.Nodup := by decide

end Sys2Proof

namespace Sys2Proof.Machine

/-! ### Decoding and encoding -/

/-- Settles O1: a word that decodes is the word of its command, and the word of a command decodes to it. -/
theorem decodeInvertsEncode : Obligations.DecodeInvertsEncode := by
  intro w i
  exact ⟨encode_of_decode, fun h => h ▸ decode_encode i⟩

/-- Settles O3: each of the ten words is the one that the encoder gives its command. -/
theorem wordsDecodeAsTheSpecWritesThem : Obligations.WordsDecodeAsTheSpecWritesThem :=
  ⟨decode_encode (.alWrite 0x21), decode_encode (.alWrite 0xC0), decode_encode (.alInc 0xFF), decode_encode (.alInc 0x20),
    decode_encode .alResetLatch, decode_encode .alGetAddr, decode_encode (.cfUpdate 0xA5), decode_encode .cfVramInc,
    decode_encode .cfIsSetVramAddIncrement, decode_encode .cfIsSetGenerateNmi⟩

/-- Settles O2: the rows a word matches are the row of the command it decodes to, which the map holds once, or none. -/
theorem everyDecodedWordLiesInOneRow : Obligations.EveryDecodedWordLiesInOneRow := by
  intro w
  cases hw : decode w with
  | ok i =>
    have hrow : ∀ r ∈ opcodeTable, r.matches w = (r == i.row) := by
      intro r hr
      obtain ⟨j, rfl⟩ := exists_row_of_mem_opcodeTable hr
      rw [Bool.eq_iff_iff, row_matches_iff, hw, beq_iff_eq]
      simp [eq_comm]
    rw [List.filter_congr hrow, ← List.count_eq_length_filter]
    exact List.count_eq_one_of_mem nodup_opcodeTable (row_mem_opcodeTable i)
  | error e =>
    have hrow : ∀ r ∈ opcodeTable, ¬ r.matches w = true := by
      intro r hr
      obtain ⟨j, rfl⟩ := exists_row_of_mem_opcodeTable hr
      rw [row_matches_iff, hw]
      simp
    rw [List.filter_eq_nil_iff.mpr hrow]
    rfl

/-! ### The refusal of a command word -/

theorem serveCommand_of_error {w : CommandWord} {e : CommandWordError} (h : decode w = .error e) (s : State) :
    serveCommand w s = .refused (.reservedCommand e) := by
  unfold serveCommand
  rw [h]

/-- Settles O4: the clauses are the decoder's, read off the two fields; where none holds, the word decodes. -/
theorem reservedWordsAreRefusedAndNoOthers : Obligations.ReservedWordsAreRefusedAndNoOthers := by
  intro w s hnext
  dsimp only
  have hzero : operandField w = 0 ↔ (operandField w).toNat = 0 := BitVec.toNat_inj.symm
  rw [← opField_toNat, ← operandField_toNat, step_of_nextRequest hnext]
  refine ⟨fun hop => ?_, fun hop hx => ?_, fun hop hx => ?_, fun h => ?_⟩
  · exact serveCommand_of_error (decode_of_reservedOp hop) s
  · exact serveCommand_of_error (decode_of_operandNotZero hop (mt hzero.mp hx)) s
  · exact serveCommand_of_error (decode_of_flagIndexTooLarge hop hx) s
  · have hok : ∃ i, decode w = .ok i := by
      rcases h with hop | ⟨hop, hx⟩ | ⟨hop, hx⟩
      · exact decode_ok_of_operandOp hop
      · exact decode_ok_of_operandZero hop (hzero.mpr hx)
      · exact decode_ok_of_flagIndex hop hx
    obtain ⟨i, hi⟩ := hok
    exact ⟨i, encode_of_decode hi, serveCommand_of_decode hi s⟩

/-- Settles O5: a command that is decoded is never refused, and the decoder sees the word alone. -/
theorem decodingIgnoresTheRegisters : Obligations.DecodingIgnoresTheRegisters := by
  intro w s t why hs ht h
  rw [step_of_nextRequest hs] at h
  rw [step_of_nextRequest ht]
  cases hw : decode w with
  | ok i =>
    obtain ⟨al, cf, rs, hexec⟩ := exec_next_form i s
    cases ((serveCommand_of_decode hw s).trans hexec).symm.trans h
  | error e =>
    exact (serveCommand_of_error hw t).trans ((serveCommand_of_error hw s).symm.trans h)

end Sys2Proof.Machine
end

section
/-! PROOFS. What a command returns (30_encoding.md R39), and what a CPU transaction becomes (30_encoding.md R35). -/

namespace Sys2Proof.Machine

/-! ### Responses -/

/-- The eight flag queries share one meaning. -/
theorem exec_isSetCommand (f : Flag) (s : State) : exec (isSetCommand f) s = answerFlag f s := by
  cases f <;> rfl

theorem ControlFlags.vramAddrIncrement_eq_one_or (c : ControlFlags) :
    c.vramAddrIncrement = 1 ∨ c.vramAddrIncrement = 32 := by
  rw [c.vramAddrIncrement_eq_ite]
  split
  · exact .inr rfl
  · exact .inl rfl

theorem exec_responses_of_not_isQuery {i : Instr} (h : isQuery i = false) (s : State) :
    ∃ t, exec i s = .next t ∧ t.responses = [] := by
  cases i with
  | alWrite | alInc | alResetLatch | cfUpdate => exact ⟨_, rfl, rfl⟩
  | _ => cases h

/-- Settles O29: a query completes with its one answer, and every other command with none. -/
theorem eachCommandReturnsItsOwnResponse : Obligations.EachCommandReturnsItsOwnResponse := by
  intro s
  refine ⟨⟨_, rfl, _, rfl⟩, ⟨_, rfl, ?_⟩, fun f => ⟨_, exec_isSetCommand f s, _, rfl⟩,
    fun i hi => exec_responses_of_not_isQuery hi s⟩
  exact s.cf.vramAddrIncrement_eq_one_or.imp (congrArg fun k => [Response.step k])
    (congrArg fun k => [Response.step k])

/-! ### CPU transactions by port -/

theorem portDecode_portAddr : portDecode portAddr = .addressLatch := if_pos rfl

theorem portDecode_portCtrl : portDecode portCtrl = .controlFlags :=
  (if_neg (by decide)).trans (if_pos rfl)

/-- Settles O33: the decode routes the access, and each port has its one operation. -/
theorem cpuTransactionsReachTheBlockByPort : Obligations.CpuTransactionsReachTheBlockByPort := by
  refine ⟨portDecode_portAddr, portDecode_portCtrl, portDecode_dataPort, fun s a d => ⟨fun h => ?_, fun h => ?_, ?_⟩⟩
  · have hserve : step s = busWrite a d s := step_of_nextRequest h
    rw [hserve]
    unfold busWrite
    cases portDecode a <;> rfl
  · have hserve : step s = busRead a s := step_of_nextRequest h
    rw [hserve]
    unfold busRead
    cases portDecode a <;> rfl
  · exact fun rw h => step_of_nextRequest h

end Sys2Proof.Machine
end

section
/-! PROOFS. The pseudo-instructions (30_encoding.md R43). -/

namespace Sys2Proof.Machine

/-! ### A pair of writes -/

theorem AddressLatch.fold_eq (l : AddressLatch) : l.fold = { l with hi := l.hi &&& 0x3F } :=
  l.setAddress_and_addrMask

theorem AddressLatch.writeByte_expectHigh {l : AddressLatch} (h : l.w = true) (d : Byte) :
    l.writeByte d = { hi := d &&& 0x3F, lo := l.lo, w := false } := by
  unfold AddressLatch.writeByte AddressLatch.storeSelected AddressLatch.toggle
  rw [AddressLatch.fold_eq, if_pos h, h]
  rfl

theorem AddressLatch.writeByte_expectLow {l : AddressLatch} (h : l.w = false) (d : Byte) :
    l.writeByte d = { hi := l.hi &&& 0x3F, lo := d, w := true } := by
  unfold AddressLatch.writeByte AddressLatch.storeSelected AddressLatch.toggle
  rw [AddressLatch.fold_eq, if_neg (by simp [h]), h]
  rfl

/-- In EXPECT_HIGH the writes of an address's two bytes set the address, folded. -/
theorem AddressLatch.writeByte_highByte_lowByte {l : AddressLatch} (h : l.w = true) (a : Address) :
    (l.writeByte (highByte a)).writeByte (lowByte a) = (l.setAddress a).fold := by
  rw [AddressLatch.writeByte_expectHigh h, AddressLatch.writeByte_expectLow rfl, AddressLatch.fold_eq,
    BitVec.and_assoc, BitVec.and_self]
  exact congrArg (AddressLatch.mk _ _) h.symm

/-- Settles O43: the reset makes the two writes a high and a low one, and the response of the query is the step in effect. -/
theorem pseudoInstructionsExpandAsListed : Obligations.PseudoInstructionsExpandAsListed := by
  intro a s
  refine ⟨rfl, ?_, ?_⟩
  · obtain ⟨t, ht, hal, hcf, -⟩ := execAll_completes (expandLine (.alSetAddr a) s) s
    have hal : t.al = (s.al.resetLatch.setAddress a).fold :=
      hal.trans (AddressLatch.writeByte_highByte_lowByte s.al.resetLatch_w a)
    refine ⟨t, ht, ?_, ?_, hcf⟩
    · rw [hal, AddressLatch.address_fold, AddressLatch.address_setAddress]
      rfl
    · rw [hal]
      rfl
  · obtain ⟨t, ht, hal, hcf, -⟩ := execAll_completes (expandLine .dpAdvance s) s
    exact ⟨s.cf.vramAddrIncrement, _, t, rfl, rfl, rfl, ht, hal, hcf⟩

end Sys2Proof.Machine
end

section
/-! PROOFS. The assembler (30_encoding.md R42): the line that spells a command is read back as that command. -/

namespace Sys2Proof.Machine

/-! ### Numbers -/

theorem hexDigit_hexChar {n : Nat} (h : n < 16) : hexDigit (hexChar n) = some n := by
  revert n
  decide

theorem number_renderByte (b : Byte) : number (renderByte b) = some b.toNat := by
  have hb := b.isLt
  have hhi := hexDigit_hexChar (show b.toNat / 16 < 16 by omega)
  have hlo := hexDigit_hexChar (show b.toNat % 16 < 16 by omega)
  simp only [number, renderByte, digitsValue, hhi, hlo, Option.bind_some, Option.some.injEq]
  omega

theorem imm8_of_number {cs : List Char} {n : Nat} (h : number cs = some n) :
    imm8 cs = if n ≤ 255 then some (BitVec.ofNat 8 n) else none := by
  unfold imm8
  rw [h, Option.bind_some]

theorem imm8_renderByte (b : Byte) : imm8 (renderByte b) = some b := by
  rw [imm8_of_number (number_renderByte b), if_pos (Nat.le_of_lt_succ b.isLt), BitVec.ofNat_toNat, BitVec.setWidth_eq]

theorem imm8_eq_none_iff {cs : List Char} {n : Nat} (h : number cs = some n) : imm8 cs = none ↔ 255 < n := by
  rw [imm8_of_number h]
  simp

/-! ### Words -/

/-- A character that neither ends a word nor begins a comment. -/
def isWordChar (c : Char) : Bool := c != ';' && c != ' ' && c != '\t'

/-- What stands on a line as one word. -/
def isWord (m : List Char) : Bool := !m.isEmpty && m.all isWordChar

theorem isWordChar_iff (c : Char) : isWordChar c = true ↔ c ≠ ';' ∧ ¬ (c = ' ' ∨ c = '\t') := by
  simp [isWordChar, and_assoc]

theorem isWord_iff (m : List Char) : isWord m = true ↔ ¬ m.isEmpty = true ∧ ∀ c ∈ m, isWordChar c = true := by
  simp [isWord]

/-- Characters of a word are added to the word begun. -/
theorem lineWords_append {m : List Char} (hm : ∀ c ∈ m, isWordChar c = true) (acc cs : List Char) :
    lineWords acc (m ++ cs) = lineWords (acc ++ m) cs := by
  induction m generalizing acc with
  | nil => rw [List.append_nil, List.nil_append]
  | cons c m ih =>
    obtain ⟨hc, hm⟩ := List.forall_mem_cons.mp hm
    obtain ⟨hcomment, hspace⟩ := (isWordChar_iff c).mp hc
    rw [List.cons_append, lineWords, if_neg hcomment, if_neg hspace, ih hm, List.append_assoc, List.singleton_append]

theorem lineWords_of_isWord {x : List Char} (hx : isWord x = true) : lineWords [] x = [x] := by
  obtain ⟨hne, hchars⟩ := (isWord_iff x).mp hx
  have h := lineWords_append hchars [] []
  rw [List.append_nil, List.nil_append] at h
  rw [h, lineWords, if_neg hne]

theorem lineWords_of_two_words {m x : List Char} (hm : isWord m = true) (hx : isWord x = true) :
    lineWords [] (m ++ ' ' :: x) = [m, x] := by
  obtain ⟨hne, hchars⟩ := (isWord_iff m).mp hm
  rw [lineWords_append hchars, List.nil_append, lineWords, if_neg (by decide), if_pos (.inl rfl), if_neg hne,
    lineWords_of_isWord hx]

theorem isWord_renderByte (b : Byte) : isWord (renderByte b) = true := by
  have hhex : ∀ n < 16, isWordChar (hexChar n) = true := by decide
  have hb := b.isLt
  refine (isWord_iff _).mpr ⟨Bool.false_ne_true, ?_⟩
  simp only [renderByte, List.forall_mem_cons]
  exact ⟨rfl, rfl, hhex _ (by omega), hhex _ (by omega), List.forall_mem_nil _⟩

theorem isWord_flagName (f : Flag) : isWord (flagName f).toList = true := by
  cases f <;> decide

/-! ### Lines -/

theorem parseWithOperand_alWrite (x : List Char) :
    parseWithOperand "al.write".toList x = (imm8 x).map fun d => .command (.alWrite d) := by
  rw [parseWithOperand, if_pos rfl]

theorem parseWithOperand_alInc (x : List Char) :
    parseWithOperand "al.inc".toList x = (imm8 x).map fun s => .command (.alInc s) := by
  rw [parseWithOperand, if_neg (by decide), if_pos rfl]

theorem parseWithOperand_cfUpdate (x : List Char) :
    parseWithOperand "cf.update".toList x = (imm8 x).map fun d => .command (.cfUpdate d) := by
  rw [parseWithOperand, if_neg (by decide), if_neg (by decide), if_pos rfl]

theorem parseWithOperand_cfIsSet (x : List Char) :
    parseWithOperand "cf.isset".toList x = (parseFlag x).map fun f => .command (isSetCommand f) := by
  rw [parseWithOperand, if_neg (by decide), if_neg (by decide), if_neg (by decide), if_pos rfl]

/-- A line of two words is a mnemonic with its operand. -/
theorem parseLine_of_two_words {m x : List Char} (hm : isWord m = true) (hx : isWord x = true) :
    parseLine (m ++ ' ' :: x) = (parseWithOperand m x).map some := by
  unfold parseLine
  rw [lineWords_of_two_words hm hx]

/-- A mnemonic that takes a byte, and a byte as it is rendered. -/
theorem parseLine_renderByte {m : List Char} (hm : isWord m = true) (i : Byte → Instr)
    (h : ∀ x, parseWithOperand m x = (imm8 x).map fun d => .command (i d)) (b : Byte) :
    parseLine (m ++ ' ' :: renderByte b) = some (some (.command (i b))) := by
  rw [parseLine_of_two_words hm (isWord_renderByte b), h, imm8_renderByte]
  rfl

theorem parseFlag_flagName (f : Flag) : parseFlag (flagName f).toList = some f := by
  cases f <;> decide

theorem renderCommand_isSetCommand (f : Flag) :
    renderCommand (isSetCommand f) = "cf.isset".toList ++ ' ' :: (flagName f).toList := by
  cases f <;> rfl

theorem parseLine_isSetCommand (f : Flag) :
    parseLine (renderCommand (isSetCommand f)) = some (some (.command (isSetCommand f))) := by
  rw [renderCommand_isSetCommand, parseLine_of_two_words (by decide) (isWord_flagName f), parseWithOperand_cfIsSet,
    parseFlag_flagName]
  rfl

/-- Every command is read back from its line: the bare ones by evaluation, the others by what their operand is read as. -/
theorem parseLine_renderCommand (i : Instr) : parseLine (renderCommand i) = some (some (.command i)) := by
  cases i with
  | alWrite d => exact parseLine_renderByte (by decide) .alWrite parseWithOperand_alWrite d
  | alInc s => exact parseLine_renderByte (by decide) .alInc parseWithOperand_alInc s
  | cfUpdate d => exact parseLine_renderByte (by decide) .cfUpdate parseWithOperand_cfUpdate d
  | alResetLatch | alGetAddr | cfVramInc => decide
  | cfIsSetNametable1 => exact parseLine_isSetCommand .nametable1
  | cfIsSetNametable2 => exact parseLine_isSetCommand .nametable2
  | cfIsSetVramAddIncrement => exact parseLine_isSetCommand .vramAddIncrement
  | cfIsSetSpritePatternAddr => exact parseLine_isSetCommand .spritePatternAddr
  | cfIsSetBackgroundPatternAddr => exact parseLine_isSetCommand .backgroundPatternAddr
  | cfIsSetSpriteSize => exact parseLine_isSetCommand .spriteSize
  | cfIsSetMasterSlaveSelect => exact parseLine_isSetCommand .masterSlaveSelect
  | cfIsSetGenerateNmi => exact parseLine_isSetCommand .generateNmi

/-- Settles O44: the line of each command is one word or two, and a number is a byte exactly up to 255. -/
theorem assemblerReadsBackEveryCommand : Obligations.AssemblerReadsBackEveryCommand :=
  ⟨parseLine_renderCommand, fun _ _ h => imm8_eq_none_iff h⟩

end Sys2Proof.Machine
end

section
/-! PROOFS. The operations of AddressLatch in closed form (40_address_latch.md R45, R46, R48), and where the fold that ends a
write or an increment has an effect (R53, R54). -/

namespace Sys2Proof.Machine

/-! ### The fold -/

/-- Masking a byte to its bits 5:0 leaves it alone exactly if bits 7 and 6 are 0. -/
theorem and_0x3F_eq_self_iff (b : Byte) : b &&& 0x3F = b ↔ b.toNat < 64 := by
  have hmask : (b &&& 0x3F).toNat = b.toNat % 64 := Nat.and_two_pow_sub_one_eq_mod b.toNat 6
  rw [← BitVec.toNat_inj, hmask]
  omega

theorem AddressLatch.hi_and_0x3F_of_inv {l : AddressLatch} (hl : l.Inv) : l.hi &&& 0x3F = l.hi :=
  (and_0x3F_eq_self_iff l.hi).mpr (l.inv_iff_hi_lt.mp hl)

/-- The fold leaves exactly the states of R13 alone. -/
theorem AddressLatch.fold_eq_self_iff (l : AddressLatch) : l.fold = l ↔ l.Inv := by
  rw [AddressLatch.fold_eq, AddressLatch.inv_iff_hi_lt, ← and_0x3F_eq_self_iff]
  exact ⟨congrArg AddressLatch.hi, fun h => by rw [h]⟩

/-! ### A write and a latch reset -/

theorem AddressLatch.writeByte_eq_ite (d : Byte) (l : AddressLatch) :
    l.writeByte d =
      if l.w then { hi := d &&& 0x3F, lo := l.lo, w := false } else { hi := l.hi &&& 0x3F, lo := d, w := true } := by
  cases h : l.w with
  | true => exact l.writeByte_expectHigh h d
  | false => exact l.writeByte_expectLow h d

theorem AddressLatch.storeSelected_hi (d : Byte) (l : AddressLatch) :
    (l.storeSelected d).hi = if l.w then d else l.hi := by
  unfold AddressLatch.storeSelected
  split <;> rfl

theorem AddressLatch.resetLatch_eq_self {l : AddressLatch} (h : l.w = true) : l.resetLatch = l :=
  congrArg (AddressLatch.mk l.hi l.lo) h.symm

/-- What a write stores is outside R13 exactly if it is a high write of a byte with bit 7 or 6 set. -/
theorem AddressLatch.not_inv_storeSelected_iff {l : AddressLatch} (hl : l.Inv) (d : Byte) :
    ¬ (l.storeSelected d).toggle.Inv ↔ l.w = true ∧ d.extractLsb' 6 2 ≠ 0 := by
  have hhi := l.inv_iff_hi_lt.mp hl
  rw [AddressLatch.inv_iff_hi_lt, AddressLatch.toggle_hi, AddressLatch.storeSelected_hi, Ne,
    extractLsb'_six_two_eq_zero_iff_lt]
  cases l.w <;> simp [hhi]

/-! ### An increment -/

theorem AddressLatch.increment_eq (k : Byte) (l : AddressLatch) :
    l.increment k =
      { hi := (if l.lo + k < l.lo then l.hi + 1 else l.hi) &&& 0x3F, lo := l.lo + k, w := l.w } :=
  (l.addStep k).fold_eq

/-- The bytewise increment is its 16-bit form (40_address_latch.md R47). -/
theorem AddressLatch.increment16_eq_increment (k : Byte) (l : AddressLatch) : l.increment16 k = l.increment k := by
  unfold AddressLatch.increment16 AddressLatch.increment AddressLatch.fold
  rw [AddressLatch.address_addStep]
  rfl

theorem AddressLatch.increment_zero {l : AddressLatch} (hl : l.Inv) : l.increment 0 = l := by
  have hlo : l.lo + 0 = l.lo := BitVec.add_zero l.lo
  rw [AddressLatch.increment_eq, hlo, if_neg (BitVec.lt_irrefl l.lo), AddressLatch.hi_and_0x3F_of_inv hl]

/-- From a state of R13 the high byte and its carry add up below the 8-bit wrap. -/
theorem AddressLatch.addStep_hi_toNat {l : AddressLatch} (hl : l.Inv) (k : Byte) :
    (l.addStep k).hi.toNat = l.hi.toNat + (l.lo.toNat + k.toNat) / 256 := by
  have hhi := l.inv_iff_hi_lt.mp hl
  have hlo := l.lo.isLt
  have hk := k.isLt
  unfold AddressLatch.addStep
  simp only [add_lt_left_iff_carry]
  split
  case isTrue hcarry =>
    rw [BitVec.toNat_add]
    show (l.hi.toNat + 1) % 2 ^ 8 = _
    omega
  case isFalse hcarry => omega

/-- The sum of an increment is outside R13 exactly if it carries out of the low byte into a high byte of 0x3F. -/
theorem AddressLatch.not_inv_addStep_iff {l : AddressLatch} (hl : l.Inv) (k : Byte) :
    ¬ (l.addStep k).Inv ↔ 256 ≤ l.lo.toNat + k.toNat ∧ l.hi = 0x3F := by
  have hhi := l.inv_iff_hi_lt.mp hl
  have hlo := l.lo.isLt
  have hk := k.isLt
  rw [AddressLatch.inv_iff_hi_lt, AddressLatch.addStep_hi_toNat hl, ← BitVec.toNat_inj]
  show _ ↔ _ ∧ l.hi.toNat = 63
  omega

end Sys2Proof.Machine
end

section
/-! PROOFS. The commands of AddressLatch: their words, their whole next state, and lists of them
(40_address_latch.md R45, R46, R48, R49, R52). -/

namespace Sys2Proof.Machine

/-! ### Words and bus form -/

theorem decode_commandWord_of_operandNotZero (op : BitVec 4) (hop : op.toNat ∈ [0x3, 0x4, 0x9]) {x : Byte} (hx : x ≠ 0) :
    decode (commandWord op x) = .error .operandNotZero :=
  decode_of_operandNotZero (by rwa [opField_commandWord]) (by rwa [operandField_commandWord])

/-- A CPU write to the port of AL is `al.write` (30_encoding.md R35). -/
theorem serve_write_portAddr (d : Byte) (s : State) : serve (.cpu (.write portAddr d)) s = exec (.alWrite d) s := by
  simp only [serve, busAccess, busWrite, portDecode_portAddr, exec]

/-! ### The next state of each command -/

theorem exec_alWrite (d : Byte) (s : State) :
    exec (.alWrite d) s = .next { s with al := s.al.writeByte d, responses := [], pc := s.pc + 1 } := rfl

theorem exec_alInc (k : Byte) (s : State) :
    exec (.alInc k) s = .next { s with al := s.al.increment k, responses := [], pc := s.pc + 1 } := rfl

theorem exec_alResetLatch (s : State) :
    exec .alResetLatch s = .next { s with al := s.al.resetLatch, responses := [], pc := s.pc + 1 } := rfl

theorem exec_alGetAddr (s : State) :
    exec .alGetAddr s = .next { s with responses := [.address s.al.address], pc := s.pc + 1 } := rfl

theorem exec_alWrite_expectHigh {s : State} (h : s.al.w = true) (d : Byte) :
    exec (.alWrite d) s = .next { s with
      al := { hi := d &&& 0x3F, lo := s.al.lo, w := false }
      responses := []
      pc := s.pc + 1 } := by
  rw [exec_alWrite, AddressLatch.writeByte_expectHigh h]

/-! ### Lists of commands -/

/-- Right after a high write the address read is the new high byte with the old low byte. -/
theorem execAll_alWrite_alGetAddr {s : State} (h : s.al.w = true) (d : Byte) :
    execAll [.alWrite d, .alGetAddr] s = .next { s with
      al := { hi := d &&& 0x3F, lo := s.al.lo, w := false }
      responses := [.address (joinBytes (d &&& 0x3F) s.al.lo)]
      pc := s.pc + 2 } :=
  execAll_cons_of_exec (exec_alWrite_expectHigh h d) _

theorem execAll_append_of_execAll {is : List Instr} {s t : State} (h : execAll is s = .next t) (js : List Instr) :
    execAll (is ++ js) s = execAll js t := by
  induction is generalizing s with
  | nil =>
    cases h
    rfl
  | cons i is ih =>
    obtain ⟨al, cf, rs, hexec⟩ := exec_next_form i s
    rw [List.cons_append, execAll_cons_of_exec hexec]
    exact ih ((execAll_cons_of_exec hexec is).symm.trans h)

theorem address_alAfter_of_not_writesAddress {i : Instr} (h : writesAddress i = false) (l : AddressLatch) :
    (alAfter l i).address = l.address := by
  cases i with
  | alWrite | alInc => cases h
  | _ => rfl

/-- Commands that do not write the address leave it alone, however many they are. -/
theorem address_foldl_alAfter {is : List Instr} (h : ∀ i ∈ is, writesAddress i = false) (l : AddressLatch) :
    (is.foldl alAfter l).address = l.address := by
  induction is generalizing l with
  | nil => rfl
  | cons i is ih =>
    obtain ⟨hi, his⟩ := List.forall_mem_cons.mp h
    exact (ih his (alAfter l i)).trans (address_alAfter_of_not_writesAddress hi l)

/-! ### The address as bits -/

/-- Bits 13:8 of an address are bits 5:0 of its high byte. -/
theorem extractLsb'_eight_six_joinBytes (hi lo : Byte) :
    (joinBytes hi lo).extractLsb' 8 6 = hi.extractLsb' 0 6 := by
  have hlo := lo.isLt
  apply BitVec.eq_of_toNat_eq
  simp only [BitVec.extractLsb'_toNat, Nat.shiftRight_eq_div_pow, joinBytes_toNat]
  omega

/-- Bits 15:14 of an address of R13 are 0. -/
theorem extractLsb'_fourteen_two_of_le {a : Address} (h : a.toNat ≤ 0x3FFF) : a.extractLsb' 14 2 = 0 := by
  apply BitVec.eq_of_toNat_eq
  rw [BitVec.extractLsb'_toNat, Nat.shiftRight_eq_div_pow]
  show a.toNat / 2 ^ 14 % 2 ^ 2 = 0
  omega

end Sys2Proof.Machine
end

section
/-! PROOFS. The statements about AddressLatch (40_address_latch.md). -/

namespace Sys2Proof.Machine

/-- Settles O14: the write stores into the byte the latch flag selects, and the fold masks the high byte. -/
theorem alWriteStoresTheSelectedByteAndToggles : Obligations.AlWriteStoresTheSelectedByteAndToggles := by
  refine ⟨fun d s => ⟨decode_encode (.alWrite d), fun hnext => ?_, ?_, AddressLatch.hi_and_0x3F_of_inv,
    fun hw => execAll_alWrite_alGetAddr hw d⟩, rfl, by decide⟩
  · exact (step_of_nextRequest hnext).trans (serve_write_portAddr d s)
  · rw [exec_alWrite, AddressLatch.writeByte_eq_ite]

/-- Settles O15: the wrapped low byte shows the carry, and from a state of R13 the high byte takes it without wrapping. -/
theorem alIncAddsTheStepWithByteCarry : Obligations.AlIncAddsTheStepWithByteCarry := by
  refine ⟨fun k s => ⟨decode_encode (.alInc k), ?_, add_lt_left_iff_carry s.al.lo k, s.al.inv_iff_hi_lt.mp,
    fun hs => ?_⟩, by decide⟩
  · rw [exec_alInc, AddressLatch.increment_eq]
  · rw [exec_alInc, AddressLatch.increment_zero hs]

/-- Settles O16: before the fold the byte-wise sum is the 16-bit sum, and both are folded by the same mask. -/
theorem bytewiseIncrementIsSixteenBitAddition : Obligations.BytewiseIncrementIsSixteenBitAddition := by
  intro k s a'
  have hform : s.al.increment16 k = s.al.increment k := s.al.increment16_eq_increment k
  have haddress : (s.al.increment16 k).address = a' := AddressLatch.address_setAddress _ _
  refine ⟨?_, hform, fun _ => ?_⟩
  · rw [exec_alInc, ← hform]
    rfl
  · rw [← haddress, hform, AddressLatch.address_increment_toNat]

/-- Settles O19: each cell of the table is read off AL after the command. -/
theorem latchFollowsItsTransitionTable : Obligations.LatchFollowsItsTransitionTable := by
  refine ⟨rfl, fun s => ⟨fun hw d => ?_, fun hw d => ?_, ⟨_, exec_alResetLatch s, rfl⟩, fun k => ⟨_, exec_alInc k s, rfl⟩,
    ⟨_, exec_alGetAddr s, rfl⟩, fun i hi => ?_, fun a b => ?_⟩⟩
  · exact ⟨_, exec_alWrite_expectHigh hw d, rfl, rfl⟩
  · refine ⟨_, exec_alWrite d s, ?_, ?_⟩ <;> rw [AddressLatch.writeByte_expectLow hw]
  · obtain ⟨rs, h⟩ := exec_eq_alAfter_cfAfter i s
    exact ⟨_, h, congrArg AddressLatch.w (alAfter_of_isCfCommand hi s.al)⟩
  · obtain ⟨t, ht, htal, -⟩ := execAll_completes [.alWrite a] s
    obtain ⟨u, hu, hual, -⟩ := execAll_completes [.alWrite a, .alWrite b] s
    refine ⟨t, u, ht, ?_, hu, ?_⟩
    · rw [htal]
      exact AddressLatch.writeByte_w a s.al
    · rw [hual]
      show ((s.al.writeByte a).writeByte b).w = s.al.w
      rw [AddressLatch.writeByte_w, AddressLatch.writeByte_w, Bool.not_not]

/-- Settles O20: the high write sets the mixed address, and nothing in between changes it. -/
theorem addressIsMixedBetweenTheTwoWrites : Obligations.AddressIsMixedBetweenTheTwoWrites := by
  intro d is s hw his
  obtain ⟨t, ht, hal, -⟩ := execAll_completes (.alWrite d :: is) s
  have haddress : t.al.address = joinBytes (d &&& 0x3F) s.al.lo := by
    rw [hal, List.foldl_cons, address_foldl_alAfter his, alAfter, AddressLatch.writeByte_expectHigh hw]
    rfl
  refine ⟨_, (execAll_append_of_execAll ht _).trans (execAll_cons_of_exec (exec_alGetAddr t) []), ?_⟩
  rw [haddress]

/-- Settles O21: the fold changes exactly what is outside R13, which a write or an increment reaches in one event each. -/
theorem foldChangesTheHighByteInTwoEventsOnly : Obligations.FoldChangesTheHighByteInTwoEventsOnly := by
  intro l
  refine ⟨l.setAddress_and_addrMask, l.fold_eq_self_iff.mpr, fun hl d => ?_, fun hl k => ?_⟩
  · exact (not_congr (AddressLatch.fold_eq_self_iff _)).trans (AddressLatch.not_inv_storeSelected_iff hl d)
  · exact (not_congr (AddressLatch.fold_eq_self_iff _)).trans (AddressLatch.not_inv_addStep_iff hl k)

/-- Settles O23: no command of a list stops it. -/
theorem everyOrderOfCommandsCompletes : Obligations.EveryOrderOfCommandsCompletes := by
  intro is s
  obtain ⟨t, ht, -, -, hpc, hprogram⟩ := execAll_completes is s
  exact ⟨t, ht, hpc, hprogram⟩

/-- Settles O17: the reset touches the latch flag alone, so the write after it finds EXPECT_HIGH. -/
theorem alResetLatchMakesTheNextWriteHigh : Obligations.AlResetLatchMakesTheNextWriteHigh := by
  refine ⟨decode_encode .alResetLatch, fun x hx => decode_commandWord_of_operandNotZero 0x3 (by decide) hx,
    fun s => ⟨exec_alResetLatch s, fun hw => ?_, fun d => ?_, fun d hw => ?_⟩, rfl,
    AddressLatch.writeByte_expectHigh rfl 0x3F⟩
  · rw [exec_alResetLatch, AddressLatch.resetLatch_eq_self hw]
  · rw [execAll_cons_of_exec (exec_alResetLatch _), execAll_cons_of_exec (exec_alResetLatch _)]
    exact execAll_cons_of_exec (exec_alWrite_expectHigh (AddressLatch.resetLatch_w _) d) []
  · rw [execAll_cons_of_exec (exec_alWrite_expectHigh hw d)]
    exact execAll_cons_of_exec (exec_alResetLatch _) []

/-- Settles O18: the response is the address in AL, which the query leaves as it is. -/
theorem alGetAddrReturnsTheVideoAddress : Obligations.AlGetAddrReturnsTheVideoAddress := by
  refine ⟨decode_encode .alGetAddr, fun x hx => decode_commandWord_of_operandNotZero 0x4 (by decide) hx,
    fun s => ⟨exec_alGetAddr s, ?_, lowByte_joinBytes s.al.hi s.al.lo, extractLsb'_eight_six_joinBytes s.al.hi s.al.lo,
      fun hs => ⟨hs, extractLsb'_fourteen_two_of_le hs⟩, fun d hw => execAll_alWrite_alGetAddr hw d⟩, by decide⟩
  rw [execAll_cons_of_exec (exec_alGetAddr s)]
  exact execAll_cons_of_exec (exec_alGetAddr _) []

/-- Settles O22: in a state of R13 the high byte is below 0x40, so the carry is added without a wrap. -/
theorem highByteNeverWrapsAtEightBits : Obligations.HighByteNeverWrapsAtEightBits := by
  intro l k hl
  exact ⟨l.inv_iff_hi_lt.mp hl, AddressLatch.addStep_hi_toNat hl k⟩

end Sys2Proof.Machine
end

section
/-! PROOFS. The flags of `CF.ctrl` as its bits (41_control_flags.md R56, R57, R66) and the commands of ControlFlags: their bus
form, their whole next state, and lists of queries (41_control_flags.md R55, R67). -/

namespace Sys2Proof.Machine

/-! ### The predicates as bits -/

theorem flagMask_eq_twoPow (f : Flag) : flagMask f = BitVec.twoPow 8 (flagBit f) := by
  cases f <;> rfl

/-- Masking a byte with a flag's mask tests the flag's bit. -/
theorem and_flagMask_ne_zero_iff (b : Byte) (f : Flag) : b &&& flagMask f ≠ 0 ↔ b.getLsbD (flagBit f) = true := by
  have hmask : flagMask f ≠ 0 := by cases f <;> decide
  rw [flagMask_eq_twoPow] at hmask ⊢
  rw [BitVec.and_twoPow]
  cases b.getLsbD (flagBit f) with
  | true => exact iff_of_true hmask rfl
  | false => exact iff_of_false (fun h => h rfl) Bool.false_ne_true

theorem ControlFlags.isSet_eq_getLsbD (f : Flag) (c : ControlFlags) : c.isSet f = c.ctrl.getLsbD (flagBit f) := by
  rw [Bool.eq_iff_iff, ← and_flagMask_ne_zero_iff]
  exact bne_iff_ne

/-- The eight predicates, weighted by their bits, are the binary digits of the byte. -/
theorem ControlFlags.reconstruct_eq_toNat (c : ControlFlags) : c.reconstruct = c.ctrl.toNat := by
  have hlt : c.ctrl.toNat < 256 := c.ctrl.isLt
  simp only [ControlFlags.reconstruct, allFlags, List.map_cons, List.map_nil, List.sum_cons, List.sum_nil,
    ControlFlags.isSet_eq_getLsbD, flagBit, BitVec.getLsbD, Nat.toNat_testBit, Nat.shiftLeft_eq]
  omega

/-! ### The step in effect -/

/-- The step in effect, with the mask of R56 as the spec writes it. -/
theorem ControlFlags.vramAddrIncrement_eq_ite_mask (c : ControlFlags) :
    c.vramAddrIncrement = if c.ctrl &&& 0x04 ≠ 0 then 32 else 1 := by
  rw [c.vramAddrIncrement_eq_ite]
  exact (if_congr (and_flagMask_ne_zero_iff c.ctrl .vramAddIncrement) rfl rfl).symm

theorem ControlFlags.isSet_vramAddIncrement_iff (c : ControlFlags) :
    c.isSet .vramAddIncrement = true ↔ c.vramAddrIncrement = 32 := by
  rw [c.isSet_eq_getLsbD, c.vramAddrIncrement_eq_ite, flagBit]
  cases c.ctrl.getLsbD 2 <;> decide

/-! ### Bus form and next state -/

/-- A CPU write to the port of CF is `cf.update` (30_encoding.md R35). -/
theorem serve_write_portCtrl (d : Byte) (s : State) : serve (.cpu (.write portCtrl d)) s = exec (.cfUpdate d) s := by
  simp only [serve, busAccess, busWrite, portDecode_portCtrl, exec]

theorem exec_cfUpdate (d : Byte) (s : State) :
    exec (.cfUpdate d) s = .next { s with cf := { ctrl := d }, responses := [], pc := s.pc + 1 } := rfl

theorem exec_cfVramInc (s : State) :
    exec .cfVramInc s = .next { s with responses := [.step s.cf.vramAddrIncrement], pc := s.pc + 1 } := rfl

theorem exec_isSetCommand_eq_getLsbD (f : Flag) (s : State) :
    exec (isSetCommand f) s =
      .next { s with responses := [.flag (s.cf.ctrl.getLsbD (flagBit f))], pc := s.pc + 1 } := by
  rw [exec_isSetCommand, ← s.cf.isSet_eq_getLsbD]
  rfl

/-- R57 for every flag at once: its query's word, its mask and its bit. -/
theorem answersBit_isSetCommand (f : Flag) :
    AnswersBit (isSetCommand f) f (encode (isSetCommand f)) (flagMask f) (flagBit f) :=
  ⟨decode_encode _, rfl, fun s =>
    ⟨exec_isSetCommand_eq_getLsbD f s, s.cf.isSet_eq_getLsbD f, and_flagMask_ne_zero_iff s.cf.ctrl f⟩⟩

/-! ### Queries -/

theorem alAfter_of_isQuery {q : Instr} (h : isQuery q = true) (l : AddressLatch) : alAfter l q = l := by
  cases q with
  | alWrite | alInc | alResetLatch => cases h
  | _ => rfl

theorem cfAfter_of_isQuery {q : Instr} (h : isQuery q = true) (c : ControlFlags) : cfAfter c q = c := by
  cases q with
  | cfUpdate => cases h
  | _ => rfl

/-- A list of queries completes and leaves both components as they are, however long it is. -/
theorem execAll_queries {qs : List Instr} (hqs : ∀ q ∈ qs, isQuery q = true) (s : State) :
    ∃ t, execAll qs s = .next t ∧ sameRegisters s t ∧ t.program = s.program ∧ t.pc = s.pc + qs.length := by
  obtain ⟨t, ht, hal, hcf, hpc, hprogram⟩ := execAll_completes qs s
  have hal' : qs.foldl alAfter s.al = s.al :=
    List.foldlRecOn (motive := (· = s.al)) qs alAfter rfl
      fun l hl q hq => (alAfter_of_isQuery (hqs q hq) l).trans hl
  have hcf' : qs.foldl cfAfter s.cf = s.cf :=
    List.foldlRecOn (motive := (· = s.cf)) qs cfAfter rfl
      fun c hc q hq => (cfAfter_of_isQuery (hqs q hq) c).trans hc
  exact ⟨t, ht, ⟨hal.trans hal', hcf.trans hcf'⟩, hprogram, hpc⟩

/-- What a command returns depends on the four registers alone. -/
theorem exec_responses_of_sameRegisters {s t : State} (h : sameRegisters s t) (i : Instr) :
    ∃ u v, exec i s = .next u ∧ exec i t = .next v ∧ u.responses = v.responses := by
  obtain ⟨al, cf, responses, program, pc⟩ := t
  obtain ⟨rfl, rfl⟩ := h
  cases i <;> exact ⟨_, _, rfl, rfl, rfl⟩

end Sys2Proof.Machine
end

section
/-! PROOFS. The statements about ControlFlags (41_control_flags.md). -/

namespace Sys2Proof.Machine

/-- Settles O27: the update stores `b` whole, so the predicates after it are the binary digits of `b`. -/
theorem flagPredicatesReconstructTheByte : Obligations.FlagPredicatesReconstructTheByte := by
  intro b s
  exact ⟨_, exec_cfUpdate b s, ControlFlags.reconstruct_eq_toNat _,
    fun f => ⟨_, exec_isSetCommand_eq_getLsbD f _, rfl⟩⟩

/-- Settles O28: queries keep the registers, and what a command returns depends on the registers alone. -/
theorem queriesChangeNothingAndAnswerAlike : Obligations.QueriesChangeNothingAndAnswerAlike := by
  intro qs s hqs
  obtain ⟨t, ht, hregisters, hprogram, hpc⟩ := execAll_queries hqs s
  exact ⟨t, ht, hregisters, hprogram, hpc, fun q _ => exec_responses_of_sameRegisters hregisters q⟩

/-- Settles O24: the stored byte is the data, and the query after it reads bit 2 of that byte. -/
theorem cfUpdateReplacesTheWholeByte : Obligations.CfUpdateReplacesTheWholeByte := by
  refine ⟨fun d s => ⟨decode_encode (.cfUpdate d), fun hnext => ?_, exec_cfUpdate d s, fun hd => ?_, ?_⟩, rfl⟩
  · exact (step_of_nextRequest hnext).trans (serve_write_portCtrl d s)
  · rw [exec_cfUpdate, hd]
  · rw [execAll_cons_of_exec (exec_cfUpdate d s), execAll_cons_of_exec (exec_cfVramInc _),
      ControlFlags.vramAddrIncrement_eq_ite]
    rfl

/-- Settles O25: the step in effect is a choice between two values by bit 2 alone. -/
theorem cfVramIncReturnsOneOrThirtyTwoByBitTwo : Obligations.CfVramIncReturnsOneOrThirtyTwoByBitTwo := by
  refine ⟨decode_encode .cfVramInc, fun x hx => decode_commandWord_of_operandNotZero 0x9 (by decide) hx, fun s => ?_,
    fun c c' hbit => ?_, ControlFlags.vramAddrIncrement_eq_one_or, rfl, rfl⟩
  · rw [exec_cfVramInc, s.cf.vramAddrIncrement_eq_ite_mask]
  · rw [c.vramAddrIncrement_eq_ite, c'.vramAddrIncrement_eq_ite, hbit]

/-- Settles O26: each row is the one lemma about flag queries, at its flag. -/
theorem flagQueriesAnswerTheirBit : Obligations.FlagQueriesAnswerTheirBit :=
  ⟨answersBit_isSetCommand .nametable1, answersBit_isSetCommand .nametable2, answersBit_isSetCommand .vramAddIncrement,
    answersBit_isSetCommand .spritePatternAddr, answersBit_isSetCommand .backgroundPatternAddr,
    answersBit_isSetCommand .spriteSize, answersBit_isSetCommand .masterSlaveSelect,
    answersBit_isSetCommand .generateNmi, ControlFlags.isSet_vramAddIncrement_iff⟩

end Sys2Proof.Machine
end

section
/-! PROOFS. Which requests are served (60_exceptions.md R72): for each kind of request, the refusal its meaning makes is the
clause that `admitted` lists; and a list of admitted requests is served to its end (R70). -/

namespace Sys2Proof

/-! ### The command words -/

/-- The three clauses of R40, read off the two fields of the word. -/
theorem CommandWord.wellFormed_iff (w : CommandWord) :
    CommandWord.wellFormed w = true ↔
      (opField w).toNat ∉ reservedOps ∧ ((opField w).toNat ∈ [0x3, 0x4, 0x9] → operandField w = 0) ∧
        ((opField w).toNat = 0xA → (operandField w).toNat / 8 = 0) := by
  have hzero : operandField w = 0 ↔ (operandField w).toNat = 0 := BitVec.toNat_inj.symm
  rw [hzero, opField_toNat, operandField_toNat]
  simp [CommandWord.wellFormed, reservedOps, and_assoc, imp_iff_not_or]

/-- R37 and R40 share the 16 values of `op` out among a command's three forms and the reserved ones. -/
theorem op_cases (op : BitVec 4) :
    op.toNat ∈ reservedOps ∨ op.toNat ∈ [0x1, 0x2, 0x8] ∨ op.toNat ∈ [0x3, 0x4, 0x9] ∨ op.toNat = 0xA := by
  revert op
  decide

/-- The decoder accepts exactly the words that no clause of R40 reserves. -/
theorem decode_ok_iff_wellFormed (w : CommandWord) : (∃ i, decode w = .ok i) ↔ CommandWord.wellFormed w = true := by
  rw [CommandWord.wellFormed_iff]
  constructor
  · rintro ⟨i, hi⟩
    have hne : ∀ e, decode w ≠ .error e := by simp [hi]
    refine ⟨fun hop => hne _ (decode_of_reservedOp hop), fun hop => ?_, fun hop => ?_⟩
    · by_contra hx
      exact hne _ (decode_of_operandNotZero hop hx)
    · by_contra hx
      exact hne _ (decode_of_flagIndexTooLarge hop hx)
  · rintro ⟨hreserved, hzero, hindex⟩
    rcases op_cases (opField w) with hop | hop | hop | hop
    · exact absurd hop hreserved
    · exact decode_ok_of_operandOp hop
    · exact decode_ok_of_operandZero hop (hzero hop)
    · exact decode_ok_of_flagIndex hop (hindex hop)

end Sys2Proof

namespace Sys2Proof.Machine

theorem serveCommand_completes_iff (w : CommandWord) (s : State) :
    (∃ t, serveCommand w s = .next t) ↔ CommandWord.wellFormed w = true := by
  rw [← decode_ok_iff_wellFormed]
  cases hw : decode w with
  | ok i =>
    obtain ⟨al, cf, rs, hexec⟩ := exec_next_form i s
    exact iff_of_true ⟨_, (serveCommand_of_decode hw s).trans hexec⟩ ⟨i, rfl⟩
  | error e => simp [serveCommand_of_error hw]

/-! ### Events and CPU accesses -/

/-- No event is refused, whether or not it triggers a latch reset. -/
theorem platformEvent_completes (e : PlatformEvent) (s : State) : ∃ t, platformEvent e s = .next t := by
  unfold platformEvent
  split
  · exact ⟨_, rfl⟩
  · exact ⟨_, rfl⟩

/-- Every byte-wide write is served, whatever takes it. -/
theorem busWrite_completes (a : Address) (d : Byte) (s : State) : ∃ t, busWrite a d s = .next t := by
  unfold busWrite
  cases portDecode a with
  | addressLatch | controlFlags | dataPort => exact ⟨_, rfl⟩
  | unselected => exact platformEvent_completes _ s

/-- A byte-wide read is refused at the two register ports alone. -/
theorem busRead_completes_iff (a : Address) (s : State) :
    (∃ t, busRead a s = .next t) ↔ portDecode a ≠ .addressLatch ∧ portDecode a ≠ .controlFlags := by
  unfold busRead
  cases portDecode a with
  | addressLatch | controlFlags => simp
  | dataPort => exact iff_of_true ⟨_, rfl⟩ ⟨nofun, nofun⟩
  | unselected => exact iff_of_true (platformEvent_completes _ s) ⟨nofun, nofun⟩

/-! ### The restore of AL -/

theorem exists_latchOfByte_eq_some_iff (b : Byte) : (∃ w, latchOfByte b = some w) ↔ b = 0x00 ∨ b = 0x01 := by
  constructor
  · rintro ⟨w, hw⟩
    by_contra! h
    obtain ⟨h0, h1⟩ := h
    cases hw.symm.trans (latchOfByte_eq_none h0 h1)
  · exact fun h => ⟨_, latchOfByte_eq_some h⟩

theorem alSnapshotWellFormed_iff (b0 b2 : Byte) :
    alSnapshotWellFormed b0 b2 = true ↔ b0.extractLsb' 6 2 = 0 ∧ (b2 = 0x00 ∨ b2 = 0x01) := by
  have hlatch : b2.toNat ≤ 1 ↔ b2 = 0x00 ∨ b2 = 0x01 := by
    rw [Nat.le_one_iff_eq_zero_or_eq_one]
    exact or_congr (BitVec.toNat_inj (y := 0x00)) (BitVec.toNat_inj (y := 0x01))
  rw [extractLsb'_six_two_eq_zero_iff_lt, ← hlatch]
  simp [alSnapshotWellFormed]

theorem restoreAl_completes_iff (b0 b1 b2 : Byte) (s : State) :
    (∃ t, restoreAl b0 b1 b2 s = .next t) ↔ alSnapshotWellFormed b0 b2 = true := by
  rw [alSnapshotWellFormed_iff, ← exists_latchOfByte_eq_some_iff]
  constructor
  · rintro ⟨t, h⟩
    obtain ⟨hhi, w, hw, -⟩ := restoreAl_next h
    exact ⟨(and_0xC0_eq_zero_iff b0).mp hhi, w, hw⟩
  · rintro ⟨hhi, w, hw⟩
    exact ⟨_, restoreAl_of_valid hhi hw b1 s⟩

/-! ### Admitted requests -/

theorem admitted_iff_wellFormed {r : Request} (hr : ∀ a, r ≠ .cpu (.read a) := by nofun) :
    admitted r ↔ r.wellFormed = true :=
  and_iff_left fun a ha => absurd ha (hr a)

theorem admitted_read_iff (a : Address) :
    admitted (.cpu (.read a)) ↔ portDecode a ≠ .addressLatch ∧ portDecode a ≠ .controlFlags := by
  constructor
  · exact fun h => h.2 a rfl
  · intro h
    refine ⟨rfl, ?_⟩
    rintro a ⟨⟩
    exact h

/-- In every state, the requests that are served are those that no clause of R72 refuses. -/
theorem serve_completes_iff (r : Request) (s : State) : (∃ t, serve r s = .next t) ↔ admitted r := by
  cases r with
  | command w =>
    rw [admitted_iff_wellFormed]
    exact serveCommand_completes_iff w s
  | cpu c =>
    cases c with
    | read a => exact (busRead_completes_iff a s).trans (admitted_read_iff a).symm
    | write a d => exact iff_of_true (busWrite_completes a d s) ((admitted_iff_wellFormed).mpr rfl)
    | wide rw a => exact iff_of_false nofun nofun
  | event e => exact iff_of_true (platformEvent_completes _ s) ((admitted_iff_wellFormed).mpr rfl)
  | snapshotAl | snapshotCf | restoreCf => exact iff_of_true ⟨_, rfl⟩ ((admitted_iff_wellFormed).mpr rfl)
  | restoreAl b0 b1 b2 =>
    rw [admitted_iff_wellFormed]
    exact restoreAl_completes_iff b0 b1 b2 s

/-- Settles O10: a step is the service of the next request, which completes exactly if it is admitted. -/
theorem stepsAreTakenExactlyForAdmittedRequests : Obligations.StepsAreTakenExactlyForAdmittedRequests := by
  intro s
  constructor
  · rintro ⟨t, h⟩
    obtain ⟨r, hr, hserve⟩ := step_next h
    exact ⟨r, hr, (serve_completes_iff r s).mp ⟨t, hserve⟩⟩
  · rintro ⟨r, hr, hadmitted⟩
    rw [step_of_nextRequest hr]
    exact (serve_completes_iff r s).mpr hadmitted

theorem admitted_command_encode (i : Instr) : admitted (.command (encode i)) :=
  (admitted_iff_wellFormed).mpr ((decode_ok_iff_wellFormed _).mp ⟨i, decode_encode i⟩)

/-- Admitted requests that stand next are served one after another, each of which advances the index by one. -/
theorem run_admitted (rs rest : List Request) (s : State) (h : s.program.drop s.pc = rs ++ rest)
    (hrs : ∀ r ∈ rs, admitted r) :
    ∃ t : State, Host.Core.run Sys2Proof.core rs.length s = .next t ∧ t.pc = s.pc + rs.length ∧ t.program = s.program := by
  induction rs generalizing s with
  | nil => exact ⟨s, rfl, rfl, rfl⟩
  | cons r rs ih =>
    obtain ⟨hr, hrs⟩ := List.forall_mem_cons.mp hrs
    obtain ⟨hnext, hrest⟩ := nextRequest_of_drop h
    obtain ⟨u, hu⟩ := (stepsAreTakenExactlyForAdmittedRequests s).mpr ⟨r, hnext, hr⟩
    obtain ⟨hupc, huprogram⟩ := everyStepAdvancesTheIndexByOne s u hu
    obtain ⟨t, hrun, hpc, hprogram⟩ := ih u (by rw [huprogram, hupc]; exact hrest) hrs
    refine ⟨t, (run_succ_of_step hu).trans hrun, ?_, hprogram.trans huprogram⟩
    rw [hpc, hupc, List.length_cons, Nat.add_right_comm, Nat.add_assoc]

/-- Settles O8: a command's word decodes and no write is refused; a list of admitted requests runs by induction on it. -/
theorem admittedRequestsRunToTheirEnd : Obligations.AdmittedRequestsRunToTheirEnd :=
  ⟨admitted_command_encode, fun _ _ => (admitted_iff_wellFormed).mpr rfl, run_admitted⟩

end Sys2Proof.Machine
end

section
/-! PROOFS. Writes in a row and between them an increment or a latch reset (70_reset_and_hazards.md R85, R86), and platform
events as commands (R82). -/

namespace Sys2Proof.Machine

/-! ### The parity of a list of writes -/

/-- After a list of writes the latch flag stands as before it exactly if their number is even. -/
theorem foldl_alAfter_alWrite_w (ds : List Byte) (l : AddressLatch) :
    ((ds.map .alWrite).foldl alAfter l).w = (l.w == decide (ds.length % 2 = 0)) := by
  induction ds generalizing l with
  | nil => exact (beq_true l.w).symm
  | cons d ds ih =>
    have hparity : decide ((d :: ds).length % 2 = 0) = !decide (ds.length % 2 = 0) := by
      rw [List.length_cons, ← decide_not, decide_eq_decide]
      omega
    calc ((ds.map .alWrite).foldl alAfter (l.writeByte d)).w
        _ = ((l.writeByte d).w == decide (ds.length % 2 = 0)) := ih (l.writeByte d)
        _ = (l.w == decide ((d :: ds).length % 2 = 0)) := by
          rw [AddressLatch.writeByte_w, hparity]
          cases l.w <;> simp

/-! ### A low write -/

theorem and_0x3F_and_0x3F (b : Byte) : b &&& 0x3F &&& 0x3F = b &&& 0x3F := by
  rw [BitVec.and_assoc, BitVec.and_self]

theorem exec_alWrite_expectLow {s : State} (h : s.al.w = false) (d : Byte) :
    exec (.alWrite d) s = .next { s with
      al := { hi := s.al.hi &&& 0x3F, lo := d, w := true }
      responses := []
      pc := s.pc + 1 } := by
  rw [exec_alWrite, AddressLatch.writeByte_expectLow h]

/-! ### Two writes in a row -/

theorem execAll_alWrite_alWrite_expectHigh {s : State} (h : s.al.w = true) (a b : Byte) :
    execAll [.alWrite a, .alWrite b] s = .next { s with
      al := { hi := a &&& 0x3F, lo := b, w := true }
      responses := []
      pc := s.pc + 2 } := by
  rw [execAll_cons_of_exec (exec_alWrite_expectHigh h a), execAll_cons_of_exec (exec_alWrite_expectLow rfl b),
    and_0x3F_and_0x3F]
  rfl

theorem execAll_alWrite_alWrite_expectLow {s : State} (h : s.al.w = false) (a b : Byte) :
    execAll [.alWrite a, .alWrite b] s = .next { s with
      al := { hi := b &&& 0x3F, lo := a, w := false }
      responses := []
      pc := s.pc + 2 } := by
  rw [execAll_cons_of_exec (exec_alWrite_expectLow h a)]
  exact execAll_cons_of_exec (exec_alWrite_expectHigh rfl b) []

/-! ### An increment's carry -/

/-- The increment's high byte is the old one plus the carry of the true sum, folded. -/
theorem AddressLatch.increment_eq_add_carry (k : Byte) (l : AddressLatch) :
    l.increment k =
      { hi := (l.hi + if 256 ≤ l.lo.toNat + k.toNat then 1 else 0) &&& 0x3F, lo := l.lo + k, w := l.w } := by
  have hzero : l.hi + 0 = l.hi := BitVec.add_zero l.hi
  rw [AddressLatch.increment_eq]
  simp only [add_lt_left_iff_carry]
  split
  · rfl
  · rw [hzero]

/-! ### Platform events -/

/-- A platform event is served as one command or changes nothing but the response output and the index. -/
theorem platformEvent_eq_ite (e : PlatformEvent) (s : State) :
    platformEvent e s =
      if Config.latchResetTrigger e then exec .alResetLatch s else .next { s with responses := [], pc := s.pc + 1 } :=
  rfl

end Sys2Proof.Machine
end

section
/-! PROOFS. The statements about power-on, trigger events and hazards (70_reset_and_hazards.md R80, R82, R85 to R87). -/

namespace Sys2Proof.Machine

/-- Settles O39: each write toggles the latch flag, so the parity of the writes decides which byte the next one takes. -/
theorem writePairingFollowsParity : Obligations.WritePairingFollowsParity := by
  refine ⟨fun ds s => ?_, fun a b s => ⟨fun hw => execAll_alWrite_alWrite_expectLow hw a b, ?_⟩⟩
  · obtain ⟨t, ht, hal, -⟩ := execAll_completes (.alResetLatch :: ds.map .alWrite) s
    have hparity := foldl_alAfter_alWrite_w ds s.al.resetLatch
    rw [AddressLatch.resetLatch_w, Bool.true_beq] at hparity
    exact ⟨t, ht, (congrArg AddressLatch.w hal).trans hparity⟩
  · rw [execAll_cons_of_exec (exec_alResetLatch s)]
    exact execAll_alWrite_alWrite_expectHigh (AddressLatch.resetLatch_w s.al) a b

/-- Settles O11: the values stand in `State.reset`, and the step query there reads a clear bit 2. -/
theorem powerOnRegisters : Obligations.PowerOnRegisters :=
  ⟨rfl, rfl, rfl, rfl, by decide, exec_cfVramInc State.reset, rfl, rfl, rfl⟩

/-- Settles O36: the step serves the event, and the trigger set decides between the two outcomes. -/
theorem triggerEventsResetTheLatch : Obligations.TriggerEventsResetTheLatch := by
  intro s e hnext
  exact (step_of_nextRequest hnext).trans (platformEvent_eq_ite (.other e) s)

/-- Settles O40: the increment carries into the new high byte, which the low write only folds again; after a latch reset
the second write is a high one. -/
theorem incrementBetweenWritesKeepsItsCarry : Obligations.IncrementBetweenWritesKeepsItsCarry := by
  intro a b k s hw
  constructor
  · rw [execAll_cons_of_exec (exec_alWrite_expectHigh hw a), execAll_cons_of_exec (exec_alInc k _),
      AddressLatch.increment_eq_add_carry, execAll_cons_of_exec (exec_alWrite_expectLow rfl b), and_0x3F_and_0x3F]
    rfl
  · rw [execAll_cons_of_exec (exec_alWrite_expectHigh hw a), execAll_cons_of_exec (exec_alResetLatch _)]
    exact execAll_cons_of_exec (exec_alWrite_expectHigh (AddressLatch.resetLatch_w _) b) []

/-- Settles O41: the update reaches CF alone, and the access after it increments by the step of the updated byte. -/
theorem updateSetsTheStepOfTheNextAccess : Obligations.UpdateSetsTheStepOfTheNextAccess := by
  intro d s r hr hnext
  refine ⟨_, _, exec_cfUpdate d s, rfl, step_of_isDataPortAccess hnext hr, ?_, rfl⟩
  rw [State.finish_al, ControlFlags.vramAddrIncrement_eq_ite]

end Sys2Proof.Machine
end
